-- ==== Sys2Proof/Word.lean ====
section
/-! DEFINITION. The word types of the machine (00_scope.md R6, 20_memory.md R51, 30_encoding.md R81 to R83). -/

namespace Sys2Proof

/-- A register, an address, the pc, an instruction word: 32 bits (00_scope.md R6). -/
abbrev Word := BitVec 32

/-- A byte, the addressable unit: 8 bits (20_memory.md R51). -/
abbrev Byte := BitVec 8

/-- The 64-bit accumulator `Hi || Lo` (40_arithmetic.md R114). -/
abbrev Dword := BitVec 64

/-- A register field: the number 0 to 31 of a general register (30_encoding.md R84). -/
abbrev RegNum := BitVec 5

/-- The 16-bit immediate of format I (30_encoding.md R82). -/
abbrev Imm16 := BitVec 16

/-- The 26-bit word index of format J (30_encoding.md R83). -/
abbrev Target26 := BitVec 26

/-- The shift amount of sll, srl, sra (30_encoding.md R90). -/
abbrev Shamt := BitVec 5

/-- The code of `break` and `syscall`, bits 25..6 (30_encoding.md R91). -/
abbrev Code20 := BitVec 20

/-- The code of the register-register traps, bits 15..6 (30_encoding.md R91). -/
abbrev Code10 := BitVec 10

end Sys2Proof
end

