-- ==== Sys2Proof/Config.lean ====
section
/-! DEFINITION. What the maker of the machine fixes (00_scope.md R7), as plain data, and the free values.
The parameters stand in State, so that a statement about every state holds for every choice of them. -/

namespace Sys2Proof

/-- `ENDIAN`, the byte order of data and instruction words (20_memory.md R53). -/
inductive Endian
  | little
  | big
deriving DecidableEq, Repr

/-- The kind of a memory access, as `MEM_VALID` and `AddressError` name it (20_memory.md R54). -/
inductive Access
  | fetch
  | load
  | store
deriving DecidableEq, Repr

/-- `UNSIGNED_IMM_EXT`, the extension of the immediate of addiu, sltiu, tgeiu, tltiu (30_encoding.md R87). -/
inductive ImmExt
  | zero
  | sign
deriving DecidableEq, Repr

/-- `MUL_HILO`, what `mul` does to Hi and Lo (40_arithmetic.md R127). -/
inductive MulHiLo
  | unchanged
  | any
deriving DecidableEq, Repr

/-- A range of byte addresses that exists, with the accesses it admits (20_memory.md R58). -/
structure Region where
  /-- the first address of the range -/
  base : Nat
  /-- how many bytes the range has -/
  size : Nat
  /-- instruction fetch is valid there -/
  fetch : Bool
  /-- loads are valid there -/
  load : Bool
  /-- stores are valid there -/
  store : Bool
deriving DecidableEq, Repr

/-- A pair of values for Hi and Lo. -/
structure HiLo where
  /-- the value of Hi -/
  hi : Word
  /-- the value of Lo -/
  lo : Word
deriving DecidableEq, Repr

/-- The open parameters of 00_scope.md R7 that are plain data. `RESET_PC` is in Machine/Launch.lean and
`TRAP_HANDLER` in Machine/Platform.lean. No step changes them: the spec says so of `ENDIAN`
(20_memory.md R53); of the others it is DEDUCED (log 2, log 7, log 8, log 9). -/
structure Params where
  /-- `ENDIAN` (decision D1 of the spec: open) -/
  endian : Endian
  /-- `MEM_VALID` (decision D3 of the spec: open): a byte is valid for an access when a region admits it -/
  validRegions : List Region
  /-- `UNSIGNED_IMM_EXT` (decision D9 of the spec) -/
  unsignedImmExt : ImmExt
  /-- `DIV_OVERFLOW` (decision D8 of the spec) -/
  divOverflow : HiLo
  /-- `MUL_HILO` (decision D21 of the spec) -/
  mulHiLo : MulHiLo
deriving DecidableEq, Repr

/-- The whole space of 2^32 bytes, valid for every access (20_memory.md R50; DESIGN CHOICE, unsafe, log 2). -/
def Region.wholeSpace : Region := { base := 0, size := 4294967296, fetch := true, load := true, store := true }

/-- The parameters of State.reset. `unsignedImmExt`, `divOverflow` and `mulHiLo` are the values 00_scope.md R7
gives; little-endian and the whole space are DESIGN CHOICE, unsafe (log 1, log 2). -/
def Params.default : Params where
  endian := .little
  validRegions := [Region.wholeSpace]
  unsignedImmExt := .zero
  divOverflow := { hi := 0x00000000#32, lo := 0x80000000#32 }
  mulHiLo := .unchanged

/-- The free values ("any value", 40_arithmetic.md R113, R127): no body, so that nothing can be proved of one.
Applied to State's counter of draws; DESIGN CHOICE, safe (log 6). -/
opaque Config.freeWord : Nat → Word

end Sys2Proof
end

