-- ==== Sys2Proof/Syntax.lean ====
section
/-! DEFINITION. The instructions: one constructor for each of the 80 rows of spec/opcode_table.json, in the
table's order, operands in assembly order (30_encoding.md R100; a memory operand `imm($rs)` is written `rs imm`) and then the
code field where there is one.
`break` is spelled `brk`, since `break` is a word of Lean's own. The last five rows are spellings: the
aliases nop, b, bal of sll, beq, bgezal (30_encoding.md R101) and the two-word pseudo-instructions li, la
(49_pseudo.md R240). -/

namespace Sys2Proof

/-- An instruction, its operands decoded (30_encoding.md R93). -/
inductive Instr
  /-- `add rd, rs, rt` (R115) -/
  | add (rd rs rt : RegNum)
  /-- `addi rt, rs, imm` (R116) -/
  | addi (rt rs : RegNum) (imm : Imm16)
  /-- `addiu rt, rs, imm` (R117) -/
  | addiu (rt rs : RegNum) (imm : Imm16)
  /-- `addu rd, rs, rt` (R118) -/
  | addu (rd rs rt : RegNum)
  /-- `clo rd, rs` (R119) -/
  | clo (rd rs : RegNum)
  /-- `clz rd, rs` (R120) -/
  | clz (rd rs : RegNum)
  /-- `div rs, rt` (R121) -/
  | div (rs rt : RegNum)
  /-- `divu rs, rt` (R122) -/
  | divu (rs rt : RegNum)
  /-- `madd rs, rt` (R123) -/
  | madd (rs rt : RegNum)
  /-- `maddu rs, rt` (R124) -/
  | maddu (rs rt : RegNum)
  /-- `msub rs, rt` (R125) -/
  | msub (rs rt : RegNum)
  /-- `msubu rs, rt` (R126) -/
  | msubu (rs rt : RegNum)
  /-- `mul rd, rs, rt` (R127) -/
  | mul (rd rs rt : RegNum)
  /-- `mult rs, rt` (R128) -/
  | mult (rs rt : RegNum)
  /-- `multu rs, rt` (R129) -/
  | multu (rs rt : RegNum)
  /-- `slt rd, rs, rt` (R130) -/
  | slt (rd rs rt : RegNum)
  /-- `slti rt, rs, imm` (R131) -/
  | slti (rt rs : RegNum) (imm : Imm16)
  /-- `sltiu rt, rs, imm` (R132) -/
  | sltiu (rt rs : RegNum) (imm : Imm16)
  /-- `sltu rd, rs, rt` (R133) -/
  | sltu (rd rs rt : RegNum)
  /-- `sub rd, rs, rt` (R134) -/
  | sub (rd rs rt : RegNum)
  /-- `subu rd, rs, rt` (R135) -/
  | subu (rd rs rt : RegNum)
  /-- `beq rs, rt, imm` (R144) -/
  | beq (rs rt : RegNum) (imm : Imm16)
  /-- `bgez rs, imm` (R145) -/
  | bgez (rs : RegNum) (imm : Imm16)
  /-- `bgezal rs, imm` (R146) -/
  | bgezal (rs : RegNum) (imm : Imm16)
  /-- `bgtz rs, imm` (R147) -/
  | bgtz (rs : RegNum) (imm : Imm16)
  /-- `blez rs, imm` (R148) -/
  | blez (rs : RegNum) (imm : Imm16)
  /-- `bltz rs, imm` (R149) -/
  | bltz (rs : RegNum) (imm : Imm16)
  /-- `bltzal rs, imm` (R150) -/
  | bltzal (rs : RegNum) (imm : Imm16)
  /-- `bne rs, rt, imm` (R151) -/
  | bne (rs rt : RegNum) (imm : Imm16)
  /-- `j imm` (R152) -/
  | j (target : Target26)
  /-- `jal imm` (R153) -/
  | jal (target : Target26)
  /-- `jalr rd, rs` (R154) -/
  | jalr (rd rs : RegNum)
  /-- `jr rs` (R155) -/
  | jr (rs : RegNum)
  /-- `lb rt, imm($rs)` (R171) -/
  | lb (rt rs : RegNum) (imm : Imm16)
  /-- `lbu rt, imm($rs)` (R172) -/
  | lbu (rt rs : RegNum) (imm : Imm16)
  /-- `lh rt, imm($rs)` (R173) -/
  | lh (rt rs : RegNum) (imm : Imm16)
  /-- `lhu rt, imm($rs)` (R174) -/
  | lhu (rt rs : RegNum) (imm : Imm16)
  /-- `lui rt, imm` (R175) -/
  | lui (rt : RegNum) (imm : Imm16)
  /-- `lw rt, imm($rs)` (R176) -/
  | lw (rt rs : RegNum) (imm : Imm16)
  /-- `sb rt, imm($rs)` (R181) -/
  | sb (rt rs : RegNum) (imm : Imm16)
  /-- `sh rt, imm($rs)` (R182) -/
  | sh (rt rs : RegNum) (imm : Imm16)
  /-- `sw rt, imm($rs)` (R183) -/
  | sw (rt rs : RegNum) (imm : Imm16)
  /-- `and rd, rs, rt` (R191) -/
  | and (rd rs rt : RegNum)
  /-- `andi rt, rs, imm` (R192) -/
  | andi (rt rs : RegNum) (imm : Imm16)
  /-- `nor rd, rs, rt` (R193) -/
  | nor (rd rs rt : RegNum)
  /-- `or rd, rs, rt` (R194) -/
  | or (rd rs rt : RegNum)
  /-- `ori rt, rs, imm` (R195) -/
  | ori (rt rs : RegNum) (imm : Imm16)
  /-- `xor rd, rs, rt` (R196) -/
  | xor (rd rs rt : RegNum)
  /-- `xori rt, rs, imm` (R197) -/
  | xori (rt rs : RegNum) (imm : Imm16)
  /-- `mfhi rd` (R201) -/
  | mfhi (rd : RegNum)
  /-- `mflo rd` (R202) -/
  | mflo (rd : RegNum)
  /-- `movn rd, rs, rt` (R203) -/
  | movn (rd rs rt : RegNum)
  /-- `movz rd, rs, rt` (R204) -/
  | movz (rd rs rt : RegNum)
  /-- `mthi rs` (R205) -/
  | mthi (rs : RegNum)
  /-- `mtlo rs` (R206) -/
  | mtlo (rs : RegNum)
  /-- `sll rd, rt, shamt` (R211) -/
  | sll (rd rt : RegNum) (shamt : Shamt)
  /-- `sllv rd, rt, rs` (R212) -/
  | sllv (rd rt rs : RegNum)
  /-- `sra rd, rt, shamt` (R213) -/
  | sra (rd rt : RegNum) (shamt : Shamt)
  /-- `srav rd, rt, rs` (R214) -/
  | srav (rd rt rs : RegNum)
  /-- `srl rd, rt, shamt` (R215) -/
  | srl (rd rt : RegNum) (shamt : Shamt)
  /-- `srlv rd, rt, rs` (R216) -/
  | srlv (rd rt rs : RegNum)
  /-- `break` (R222) -/
  | brk (code : Code20)
  /-- `syscall` (R223) -/
  | syscall (code : Code20)
  /-- `teq rs, rt` (R224) -/
  | teq (rs rt : RegNum) (code : Code10)
  /-- `teqi rs, imm` (R225) -/
  | teqi (rs : RegNum) (imm : Imm16)
  /-- `tge rs, rt` (R226) -/
  | tge (rs rt : RegNum) (code : Code10)
  /-- `tgei rs, imm` (R227) -/
  | tgei (rs : RegNum) (imm : Imm16)
  /-- `tgeiu rs, imm` (R228) -/
  | tgeiu (rs : RegNum) (imm : Imm16)
  /-- `tgeu rs, rt` (R229) -/
  | tgeu (rs rt : RegNum) (code : Code10)
  /-- `tlt rs, rt` (R230) -/
  | tlt (rs rt : RegNum) (code : Code10)
  /-- `tlti rs, imm` (R231) -/
  | tlti (rs : RegNum) (imm : Imm16)
  /-- `tltiu rs, imm` (R232) -/
  | tltiu (rs : RegNum) (imm : Imm16)
  /-- `tltu rs, rt` (R233) -/
  | tltu (rs rt : RegNum) (code : Code10)
  /-- `tne rs, rt` (R234) -/
  | tne (rs rt : RegNum) (code : Code10)
  /-- `tnei rs, imm` (R235) -/
  | tnei (rs : RegNum) (imm : Imm16)
  /-- `nop` (R165) -/
  | nop
  /-- `b imm` (R142) -/
  | b (imm : Imm16)
  /-- `bal $31, imm` (R143) -/
  | bal (imm : Imm16)
  /-- `li rd, imm32` (R241) -/
  | li (rd : RegNum) (imm32 : Word)
  /-- `la rd, imm32` (R242) -/
  | la (rd : RegNum) (imm32 : Word)
deriving DecidableEq, Repr

/-- The mnemonic of an instruction as spec/opcode_table.json spells it. -/
def Instr.mnemonic : Instr → String
  | .add _ _ _ => "add"
  | .addi _ _ _ => "addi"
  | .addiu _ _ _ => "addiu"
  | .addu _ _ _ => "addu"
  | .clo _ _ => "clo"
  | .clz _ _ => "clz"
  | .div _ _ => "div"
  | .divu _ _ => "divu"
  | .madd _ _ => "madd"
  | .maddu _ _ => "maddu"
  | .msub _ _ => "msub"
  | .msubu _ _ => "msubu"
  | .mul _ _ _ => "mul"
  | .mult _ _ => "mult"
  | .multu _ _ => "multu"
  | .slt _ _ _ => "slt"
  | .slti _ _ _ => "slti"
  | .sltiu _ _ _ => "sltiu"
  | .sltu _ _ _ => "sltu"
  | .sub _ _ _ => "sub"
  | .subu _ _ _ => "subu"
  | .beq _ _ _ => "beq"
  | .bgez _ _ => "bgez"
  | .bgezal _ _ => "bgezal"
  | .bgtz _ _ => "bgtz"
  | .blez _ _ => "blez"
  | .bltz _ _ => "bltz"
  | .bltzal _ _ => "bltzal"
  | .bne _ _ _ => "bne"
  | .j _ => "j"
  | .jal _ => "jal"
  | .jalr _ _ => "jalr"
  | .jr _ => "jr"
  | .lb _ _ _ => "lb"
  | .lbu _ _ _ => "lbu"
  | .lh _ _ _ => "lh"
  | .lhu _ _ _ => "lhu"
  | .lui _ _ => "lui"
  | .lw _ _ _ => "lw"
  | .sb _ _ _ => "sb"
  | .sh _ _ _ => "sh"
  | .sw _ _ _ => "sw"
  | .and _ _ _ => "and"
  | .andi _ _ _ => "andi"
  | .nor _ _ _ => "nor"
  | .or _ _ _ => "or"
  | .ori _ _ _ => "ori"
  | .xor _ _ _ => "xor"
  | .xori _ _ _ => "xori"
  | .mfhi _ => "mfhi"
  | .mflo _ => "mflo"
  | .movn _ _ _ => "movn"
  | .movz _ _ _ => "movz"
  | .mthi _ => "mthi"
  | .mtlo _ => "mtlo"
  | .sll _ _ _ => "sll"
  | .sllv _ _ _ => "sllv"
  | .sra _ _ _ => "sra"
  | .srav _ _ _ => "srav"
  | .srl _ _ _ => "srl"
  | .srlv _ _ _ => "srlv"
  | .brk _ => "break"
  | .syscall _ => "syscall"
  | .teq _ _ _ => "teq"
  | .teqi _ _ => "teqi"
  | .tge _ _ _ => "tge"
  | .tgei _ _ => "tgei"
  | .tgeiu _ _ => "tgeiu"
  | .tgeu _ _ _ => "tgeu"
  | .tlt _ _ _ => "tlt"
  | .tlti _ _ => "tlti"
  | .tltiu _ _ => "tltiu"
  | .tltu _ _ _ => "tltu"
  | .tne _ _ _ => "tne"
  | .tnei _ _ => "tnei"
  | .nop => "nop"
  | .b _ => "b"
  | .bal _ => "bal"
  | .li _ _ => "li"
  | .la _ _ => "la"

/-- The mnemonics that are no machine instruction: the assembler replaces them (49_pseudo.md R240). -/
def Instr.isPseudo : Instr → Bool
  | .li _ _ => true
  | .la _ _ => true
  | .add _ _ _ => false
  | .addi _ _ _ => false
  | .addiu _ _ _ => false
  | .addu _ _ _ => false
  | .clo _ _ => false
  | .clz _ _ => false
  | .div _ _ => false
  | .divu _ _ => false
  | .madd _ _ => false
  | .maddu _ _ => false
  | .msub _ _ => false
  | .msubu _ _ => false
  | .mul _ _ _ => false
  | .mult _ _ => false
  | .multu _ _ => false
  | .slt _ _ _ => false
  | .slti _ _ _ => false
  | .sltiu _ _ _ => false
  | .sltu _ _ _ => false
  | .sub _ _ _ => false
  | .subu _ _ _ => false
  | .beq _ _ _ => false
  | .bgez _ _ => false
  | .bgezal _ _ => false
  | .bgtz _ _ => false
  | .blez _ _ => false
  | .bltz _ _ => false
  | .bltzal _ _ => false
  | .bne _ _ _ => false
  | .j _ => false
  | .jal _ => false
  | .jalr _ _ => false
  | .jr _ => false
  | .lb _ _ _ => false
  | .lbu _ _ _ => false
  | .lh _ _ _ => false
  | .lhu _ _ _ => false
  | .lui _ _ => false
  | .lw _ _ _ => false
  | .sb _ _ _ => false
  | .sh _ _ _ => false
  | .sw _ _ _ => false
  | .and _ _ _ => false
  | .andi _ _ _ => false
  | .nor _ _ _ => false
  | .or _ _ _ => false
  | .ori _ _ _ => false
  | .xor _ _ _ => false
  | .xori _ _ _ => false
  | .mfhi _ => false
  | .mflo _ => false
  | .movn _ _ _ => false
  | .movz _ _ _ => false
  | .mthi _ => false
  | .mtlo _ => false
  | .sll _ _ _ => false
  | .sllv _ _ _ => false
  | .sra _ _ _ => false
  | .srav _ _ _ => false
  | .srl _ _ _ => false
  | .srlv _ _ _ => false
  | .brk _ => false
  | .syscall _ => false
  | .teq _ _ _ => false
  | .teqi _ _ => false
  | .tge _ _ _ => false
  | .tgei _ _ => false
  | .tgeiu _ _ => false
  | .tgeu _ _ _ => false
  | .tlt _ _ _ => false
  | .tlti _ _ => false
  | .tltiu _ _ => false
  | .tltu _ _ _ => false
  | .tne _ _ _ => false
  | .tnei _ _ => false
  | .nop => false
  | .b _ => false
  | .bal _ => false

end Sys2Proof
end

