-- ==== Sys2Proof/WellFormed.lean ====
section
/-! DEFINITION. Which instruction terms are machine instructions under their own name. Three mnemonics of the
table are spellings of special cases of others (30_encoding.md R93, R101; 49_pseudo.md R243) and the decoder tries
those rows first, so a special case is well formed under the alias only; li and la are no machine words (R240). -/

namespace Sys2Proof

/-- The name a machine instruction decodes to: the alias where its word is an alias row's (49_pseudo.md R243). -/
def Instr.canonical : Instr → Instr
  | .sll rd rt shamt => if rd = 0#5 ∧ rt = 0#5 ∧ shamt = 0#5 then .nop else .sll rd rt shamt
  | .beq rs rt imm => if rs = 0#5 ∧ rt = 0#5 then .b imm else .beq rs rt imm
  | .bgezal rs imm => if rs = 0#5 then .bal imm else .bgezal rs imm
  | i => i

/-- A machine instruction, named as the decoder names its word: no pseudo-instruction (49_pseudo.md R240) and
no special case that has an alias row (30_encoding.md R93, R101). -/
def Instr.wellFormed (i : Instr) : Bool :=
  !i.isPseudo && decide (i.canonical = i)

end Sys2Proof
end

