-- ==== Sys2Proof/Decode.lean ====
section
/-! DEFINITION. The words: byte layout, the fields of the three formats, the decoder (total, rejecting by name), the
encoder, and the opcode table's patterns. Fields and maps from 30_encoding.md R80 to R98. -/

namespace Sys2Proof

/-! ### Bytes of a word (20_memory.md R54, R55) -/

/-- The `n` low bytes of `v`, the least significant first. -/
def splitBytes : Nat → Word → List Byte
  | 0, _ => []
  | n + 1, v => v.setWidth 8 :: splitBytes n (v >>> 8)

/-- The value of at most four bytes, the least significant first, extended with zeros to 32 bits. -/
def joinBytes : List Byte → Word
  | [] => 0#32
  | b :: bs => b.setWidth 32 ||| (joinBytes bs <<< 8)

/-- The bytes of a value in address order, given them least significant first, and back (20_memory.md R54). -/
def byteOrder : Endian → List Byte → List Byte
  | .little, bs => bs
  | .big, bs => bs.reverse

/-! ### Fields (30_encoding.md R81, R82, R83, R91) -/

/-- bits 31..26 -/
def opField (w : Word) : BitVec 6 := w.extractLsb' 26 6
/-- bits 25..21 -/
def rsField (w : Word) : RegNum := w.extractLsb' 21 5
/-- bits 20..16 -/
def rtField (w : Word) : RegNum := w.extractLsb' 16 5
/-- bits 15..11 -/
def rdField (w : Word) : RegNum := w.extractLsb' 11 5
/-- bits 10..6 -/
def shamtField (w : Word) : Shamt := w.extractLsb' 6 5
/-- bits 5..0 -/
def functField (w : Word) : BitVec 6 := w.extractLsb' 0 6
/-- bits 15..0 -/
def immField (w : Word) : Imm16 := w.extractLsb' 0 16
/-- bits 25..0 -/
def targetField (w : Word) : Target26 := w.extractLsb' 0 26
/-- bits 25..6 -/
def code20Field (w : Word) : Code20 := w.extractLsb' 6 20
/-- bits 15..6 -/
def code10Field (w : Word) : Code10 := w.extractLsb' 6 10

/-! ### The decoder -/

/-- Why a word, or a list of bytes, is no instruction (30_encoding.md R98). -/
inductive Reject
  /-- `op` is assigned to nothing (R94) -/
  | unassignedOp (op : BitVec 6)
  /-- `op` is 0 and `funct` is assigned to nothing (R95) -/
  | unassignedSpecial (funct : BitVec 6)
  /-- `op` is 1 and `rt` is assigned to nothing (R96) -/
  | unassignedRegimm (rt : RegNum)
  /-- `op` is 28 and `funct` is assigned to nothing (R97) -/
  | unassignedSpecial2 (funct : BitVec 6)
  /-- a field that the instruction does not use is not 0 (R92) -/
  | nonzeroUnusedField
  /-- clo or clz with `rt` different from `rd` (40_arithmetic.md R119) -/
  | destinationMismatch
  /-- fewer than the four bytes of an instruction (R80) -/
  | tooShort
deriving DecidableEq, Repr

/-- The instruction where the fields it does not use are 0 (30_encoding.md R92). -/
def ifUnusedZero (zero : Bool) (i : Instr) : Except Reject Instr :=
  if zero then .ok i else .error .nonzeroUnusedField

/-- The instruction where `rt` repeats `rd` and the unused `shamt` is 0 (40_arithmetic.md R119). -/
def ifCountForm (w : Word) (i : Instr) : Except Reject Instr :=
  if rtField w = rdField w then ifUnusedZero (shamtField w == 0#5) i else .error .destinationMismatch

/-- The SPECIAL class, `op` = 0, chosen by `funct` (30_encoding.md R95). -/
def decodeSpecial (w : Word) : Except Reject Instr :=
  let rs := rsField w
  let rt := rtField w
  let rd := rdField w
  let sh := shamtField w
  match (functField w).toNat with
  | 0 => ifUnusedZero (rs == 0#5) (.sll rd rt sh)
  | 2 => ifUnusedZero (rs == 0#5) (.srl rd rt sh)
  | 3 => ifUnusedZero (rs == 0#5) (.sra rd rt sh)
  | 4 => ifUnusedZero (sh == 0#5) (.sllv rd rt rs)
  | 6 => ifUnusedZero (sh == 0#5) (.srlv rd rt rs)
  | 7 => ifUnusedZero (sh == 0#5) (.srav rd rt rs)
  | 8 => ifUnusedZero (rt == 0#5 && rd == 0#5 && sh == 0#5) (.jr rs)
  | 9 => ifUnusedZero (rt == 0#5 && sh == 0#5) (.jalr rd rs)
  | 10 => ifUnusedZero (sh == 0#5) (.movz rd rs rt)
  | 11 => ifUnusedZero (sh == 0#5) (.movn rd rs rt)
  | 12 => .ok (.syscall (code20Field w))
  | 13 => .ok (.brk (code20Field w))
  | 16 => ifUnusedZero (rs == 0#5 && rt == 0#5 && sh == 0#5) (.mfhi rd)
  | 17 => ifUnusedZero (rt == 0#5 && rd == 0#5 && sh == 0#5) (.mthi rs)
  | 18 => ifUnusedZero (rs == 0#5 && rt == 0#5 && sh == 0#5) (.mflo rd)
  | 19 => ifUnusedZero (rt == 0#5 && rd == 0#5 && sh == 0#5) (.mtlo rs)
  | 24 => ifUnusedZero (rd == 0#5 && sh == 0#5) (.mult rs rt)
  | 25 => ifUnusedZero (rd == 0#5 && sh == 0#5) (.multu rs rt)
  | 26 => ifUnusedZero (rd == 0#5 && sh == 0#5) (.div rs rt)
  | 27 => ifUnusedZero (rd == 0#5 && sh == 0#5) (.divu rs rt)
  | 32 => ifUnusedZero (sh == 0#5) (.add rd rs rt)
  | 33 => ifUnusedZero (sh == 0#5) (.addu rd rs rt)
  | 34 => ifUnusedZero (sh == 0#5) (.sub rd rs rt)
  | 35 => ifUnusedZero (sh == 0#5) (.subu rd rs rt)
  | 36 => ifUnusedZero (sh == 0#5) (.and rd rs rt)
  | 37 => ifUnusedZero (sh == 0#5) (.or rd rs rt)
  | 38 => ifUnusedZero (sh == 0#5) (.xor rd rs rt)
  | 39 => ifUnusedZero (sh == 0#5) (.nor rd rs rt)
  | 42 => ifUnusedZero (sh == 0#5) (.slt rd rs rt)
  | 43 => ifUnusedZero (sh == 0#5) (.sltu rd rs rt)
  | 48 => .ok (.tge rs rt (code10Field w))
  | 49 => .ok (.tgeu rs rt (code10Field w))
  | 50 => .ok (.tlt rs rt (code10Field w))
  | 51 => .ok (.tltu rs rt (code10Field w))
  | 52 => .ok (.teq rs rt (code10Field w))
  | 54 => .ok (.tne rs rt (code10Field w))
  | _ => .error (.unassignedSpecial (functField w))

/-- The REGIMM class, `op` = 1, chosen by `rt` (30_encoding.md R96). -/
def decodeRegimm (w : Word) : Except Reject Instr :=
  let rs := rsField w
  let imm := immField w
  match (rtField w).toNat with
  | 0 => .ok (.bltz rs imm)
  | 1 => .ok (.bgez rs imm)
  | 8 => .ok (.tgei rs imm)
  | 9 => .ok (.tgeiu rs imm)
  | 10 => .ok (.tlti rs imm)
  | 11 => .ok (.tltiu rs imm)
  | 12 => .ok (.teqi rs imm)
  | 14 => .ok (.tnei rs imm)
  | 16 => .ok (.bltzal rs imm)
  | 17 => .ok (.bgezal rs imm)
  | _ => .error (.unassignedRegimm (rtField w))

/-- The SPECIAL2 class, `op` = 28, chosen by `funct` (30_encoding.md R97). -/
def decodeSpecial2 (w : Word) : Except Reject Instr :=
  let rs := rsField w
  let rt := rtField w
  let rd := rdField w
  let sh := shamtField w
  match (functField w).toNat with
  | 0 => ifUnusedZero (rd == 0#5 && sh == 0#5) (.madd rs rt)
  | 1 => ifUnusedZero (rd == 0#5 && sh == 0#5) (.maddu rs rt)
  | 2 => ifUnusedZero (sh == 0#5) (.mul rd rs rt)
  | 4 => ifUnusedZero (rd == 0#5 && sh == 0#5) (.msub rs rt)
  | 5 => ifUnusedZero (rd == 0#5 && sh == 0#5) (.msubu rs rt)
  | 32 => ifCountForm w (.clz rd rs)
  | 33 => ifCountForm w (.clo rd rs)
  | _ => .error (.unassignedSpecial2 (functField w))

/-- The primary map, `op` = bits 31..26 (30_encoding.md R94), without the alias rows. -/
def decodePrimary (w : Word) : Except Reject Instr :=
  let rs := rsField w
  let rt := rtField w
  let imm := immField w
  match (opField w).toNat with
  | 0 => decodeSpecial w
  | 1 => decodeRegimm w
  | 2 => .ok (.j (targetField w))
  | 3 => .ok (.jal (targetField w))
  | 4 => .ok (.beq rs rt imm)
  | 5 => .ok (.bne rs rt imm)
  | 6 => ifUnusedZero (rt == 0#5) (.blez rs imm)
  | 7 => ifUnusedZero (rt == 0#5) (.bgtz rs imm)
  | 8 => .ok (.addi rt rs imm)
  | 9 => .ok (.addiu rt rs imm)
  | 10 => .ok (.slti rt rs imm)
  | 11 => .ok (.sltiu rt rs imm)
  | 12 => .ok (.andi rt rs imm)
  | 13 => .ok (.ori rt rs imm)
  | 14 => .ok (.xori rt rs imm)
  | 15 => ifUnusedZero (rs == 0#5) (.lui rt imm)
  | 28 => decodeSpecial2 w
  | 32 => .ok (.lb rt rs imm)
  | 33 => .ok (.lh rt rs imm)
  | 35 => .ok (.lw rt rs imm)
  | 36 => .ok (.lbu rt rs imm)
  | 37 => .ok (.lhu rt rs imm)
  | 40 => .ok (.sb rt rs imm)
  | 41 => .ok (.sh rt rs imm)
  | 43 => .ok (.sw rt rs imm)
  | _ => .error (.unassignedOp (opField w))

/-- The decoder of 30_encoding.md R93: a word that is an alias row's is named by the alias. -/
def decode (w : Word) : Except Reject Instr :=
  (decodePrimary w).map Instr.canonical

/-- The first instruction of a list of bytes in address order, and the bytes after it (30_encoding.md R80,
20_memory.md R57). -/
def decodeBytes (e : Endian) : List Byte → Except Reject (Instr × List Byte)
  | b0 :: b1 :: b2 :: b3 :: rest => (decode (joinBytes (byteOrder e [b0, b1, b2, b3]))).map (·, rest)
  | _ => .error .tooShort

/-- The bytes of an instruction word in address order (20_memory.md R55, R57). -/
def wordBytes (e : Endian) (w : Word) : List Byte := byteOrder e (splitBytes 4 w)

/-- The instruction word given as a table word: the low `nbits` bits of `w`, zeros above (30_encoding.md R80). -/
def tableWord (nbits w : Nat) : Word := BitVec.ofNat 32 (w % 2 ^ nbits)

/-- What the decoder reads from a table word laid out as the machine after reset stores it. -/
def decodeTableWord (nbits w : Nat) : Option Instr :=
  match decodeBytes Params.default.endian (wordBytes Params.default.endian (tableWord nbits w)) with
  | .ok (i, _) => some i
  | .error _ => none

/-! ### The encoder -/

/-- Format R (30_encoding.md R81). -/
def formatR (op : BitVec 6) (rs rt rd : RegNum) (shamt : Shamt) (funct : BitVec 6) : Word :=
  op ++ rs ++ rt ++ rd ++ shamt ++ funct
/-- Format I (30_encoding.md R82). -/
def formatI (op : BitVec 6) (rs rt : RegNum) (imm : Imm16) : Word := op ++ rs ++ rt ++ imm
/-- Format J (30_encoding.md R83). -/
def formatJ (op : BitVec 6) (target : Target26) : Word := op ++ target
/-- Format R with the 20-bit code in bits 25..6 (30_encoding.md R91). -/
def formatCode20 (op : BitVec 6) (code : Code20) (funct : BitVec 6) : Word := op ++ code ++ funct
/-- Format R with the 10-bit code in bits 15..6 (30_encoding.md R91). -/
def formatCode10 (op : BitVec 6) (rs rt : RegNum) (code : Code10) (funct : BitVec 6) : Word :=
  op ++ rs ++ rt ++ code ++ funct

/-- The two words of `li rd, imm32` and `la rd, imm32`: lui, then ori (49_pseudo.md R241, R242). -/
def loadImmediateWords (rd : RegNum) (imm32 : Word) : List Word :=
  [formatI 15#6 0#5 rd (imm32.extractLsb' 16 16), formatI 13#6 rd rd (imm32.extractLsb' 0 16)]

/-- The words of an instruction: one for a machine instruction, two for a pseudo-instruction
(30_encoding.md R94 to R97, R101; 49_pseudo.md R241, R242, R243). -/
def encode : Instr → List Word
  | .add rd rs rt => [formatR 0#6 rs rt rd 0#5 32#6]
  | .addi rt rs imm => [formatI 8#6 rs rt imm]
  | .addiu rt rs imm => [formatI 9#6 rs rt imm]
  | .addu rd rs rt => [formatR 0#6 rs rt rd 0#5 33#6]
  | .clo rd rs => [formatR 28#6 rs rd rd 0#5 33#6]
  | .clz rd rs => [formatR 28#6 rs rd rd 0#5 32#6]
  | .div rs rt => [formatR 0#6 rs rt 0#5 0#5 26#6]
  | .divu rs rt => [formatR 0#6 rs rt 0#5 0#5 27#6]
  | .madd rs rt => [formatR 28#6 rs rt 0#5 0#5 0#6]
  | .maddu rs rt => [formatR 28#6 rs rt 0#5 0#5 1#6]
  | .msub rs rt => [formatR 28#6 rs rt 0#5 0#5 4#6]
  | .msubu rs rt => [formatR 28#6 rs rt 0#5 0#5 5#6]
  | .mul rd rs rt => [formatR 28#6 rs rt rd 0#5 2#6]
  | .mult rs rt => [formatR 0#6 rs rt 0#5 0#5 24#6]
  | .multu rs rt => [formatR 0#6 rs rt 0#5 0#5 25#6]
  | .slt rd rs rt => [formatR 0#6 rs rt rd 0#5 42#6]
  | .slti rt rs imm => [formatI 10#6 rs rt imm]
  | .sltiu rt rs imm => [formatI 11#6 rs rt imm]
  | .sltu rd rs rt => [formatR 0#6 rs rt rd 0#5 43#6]
  | .sub rd rs rt => [formatR 0#6 rs rt rd 0#5 34#6]
  | .subu rd rs rt => [formatR 0#6 rs rt rd 0#5 35#6]
  | .beq rs rt imm => [formatI 4#6 rs rt imm]
  | .bgez rs imm => [formatI 1#6 rs 1#5 imm]
  | .bgezal rs imm => [formatI 1#6 rs 17#5 imm]
  | .bgtz rs imm => [formatI 7#6 rs 0#5 imm]
  | .blez rs imm => [formatI 6#6 rs 0#5 imm]
  | .bltz rs imm => [formatI 1#6 rs 0#5 imm]
  | .bltzal rs imm => [formatI 1#6 rs 16#5 imm]
  | .bne rs rt imm => [formatI 5#6 rs rt imm]
  | .j target => [formatJ 2#6 target]
  | .jal target => [formatJ 3#6 target]
  | .jalr rd rs => [formatR 0#6 rs 0#5 rd 0#5 9#6]
  | .jr rs => [formatR 0#6 rs 0#5 0#5 0#5 8#6]
  | .lb rt rs imm => [formatI 32#6 rs rt imm]
  | .lbu rt rs imm => [formatI 36#6 rs rt imm]
  | .lh rt rs imm => [formatI 33#6 rs rt imm]
  | .lhu rt rs imm => [formatI 37#6 rs rt imm]
  | .lui rt imm => [formatI 15#6 0#5 rt imm]
  | .lw rt rs imm => [formatI 35#6 rs rt imm]
  | .sb rt rs imm => [formatI 40#6 rs rt imm]
  | .sh rt rs imm => [formatI 41#6 rs rt imm]
  | .sw rt rs imm => [formatI 43#6 rs rt imm]
  | .and rd rs rt => [formatR 0#6 rs rt rd 0#5 36#6]
  | .andi rt rs imm => [formatI 12#6 rs rt imm]
  | .nor rd rs rt => [formatR 0#6 rs rt rd 0#5 39#6]
  | .or rd rs rt => [formatR 0#6 rs rt rd 0#5 37#6]
  | .ori rt rs imm => [formatI 13#6 rs rt imm]
  | .xor rd rs rt => [formatR 0#6 rs rt rd 0#5 38#6]
  | .xori rt rs imm => [formatI 14#6 rs rt imm]
  | .mfhi rd => [formatR 0#6 0#5 0#5 rd 0#5 16#6]
  | .mflo rd => [formatR 0#6 0#5 0#5 rd 0#5 18#6]
  | .movn rd rs rt => [formatR 0#6 rs rt rd 0#5 11#6]
  | .movz rd rs rt => [formatR 0#6 rs rt rd 0#5 10#6]
  | .mthi rs => [formatR 0#6 rs 0#5 0#5 0#5 17#6]
  | .mtlo rs => [formatR 0#6 rs 0#5 0#5 0#5 19#6]
  | .sll rd rt shamt => [formatR 0#6 0#5 rt rd shamt 0#6]
  | .sllv rd rt rs => [formatR 0#6 rs rt rd 0#5 4#6]
  | .sra rd rt shamt => [formatR 0#6 0#5 rt rd shamt 3#6]
  | .srav rd rt rs => [formatR 0#6 rs rt rd 0#5 7#6]
  | .srl rd rt shamt => [formatR 0#6 0#5 rt rd shamt 2#6]
  | .srlv rd rt rs => [formatR 0#6 rs rt rd 0#5 6#6]
  | .brk code => [formatCode20 0#6 code 13#6]
  | .syscall code => [formatCode20 0#6 code 12#6]
  | .teq rs rt code => [formatCode10 0#6 rs rt code 52#6]
  | .teqi rs imm => [formatI 1#6 rs 12#5 imm]
  | .tge rs rt code => [formatCode10 0#6 rs rt code 48#6]
  | .tgei rs imm => [formatI 1#6 rs 8#5 imm]
  | .tgeiu rs imm => [formatI 1#6 rs 9#5 imm]
  | .tgeu rs rt code => [formatCode10 0#6 rs rt code 49#6]
  | .tlt rs rt code => [formatCode10 0#6 rs rt code 50#6]
  | .tlti rs imm => [formatI 1#6 rs 10#5 imm]
  | .tltiu rs imm => [formatI 1#6 rs 11#5 imm]
  | .tltu rs rt code => [formatCode10 0#6 rs rt code 51#6]
  | .tne rs rt code => [formatCode10 0#6 rs rt code 54#6]
  | .tnei rs imm => [formatI 1#6 rs 14#5 imm]
  | .nop => [formatR 0#6 0#5 0#5 0#5 0#5 0#6]
  | .b imm => [formatI 4#6 0#5 0#5 imm]
  | .bal imm => [formatI 1#6 0#5 17#5 imm]
  | .li rd imm32 => loadImmediateWords rd imm32
  | .la rd imm32 => loadImmediateWords rd imm32

/-! ### Names and labels of the assembler (10_state.md R22, 30_encoding.md R100) -/

/-- The name form of a register, `$z0` to `$ra` (10_state.md R22). -/
def registerName (r : RegNum) : String :=
  (["$z0", "$at", "$v0", "$v1", "$a0", "$a1", "$a2", "$a3"] ++
   ["$t0", "$t1", "$t2", "$t3", "$t4", "$t5", "$t6", "$t7"] ++
   ["$s0", "$s1", "$s2", "$s3", "$s4", "$s5", "$s6", "$s7"] ++
   ["$t8", "$t9", "$k0", "$k1", "$gp", "$sp", "$fp", "$ra"]).getD r.toNat ""

/-- The offset field the assembler stores for a branch at `pc` to `label` (30_encoding.md R100). For a label out of
reach or not a multiple of 4 away the spec gives no field; keeping bits 17..2 of the difference is DESIGN CHOICE, unsafe
(log 15). That the difference is taken modulo 2^32 is DEDUCED (log 15). -/
def branchOffsetTo (pc label : Word) : Imm16 := (label - (pc + 4#32)).extractLsb' 2 16

/-- The target field the assembler stores for a jump to `label`, `label[27:2]` (30_encoding.md R100). -/
def jumpTargetTo (label : Word) : Target26 := label.extractLsb' 2 26

/-! ### The patterns of spec/opcode_table.json (30_encoding.md R93) -/

/-- A row of the table: a word `w` selects it when `w &&& mask = pattern`. -/
structure OpcodeRow where
  /-- the row's mnemonic -/
  mnemonic : String
  /-- the row's `match` -/
  pattern : Word
  /-- the row's `mask` -/
  mask : Word
deriving DecidableEq, Repr

/-- The word selects the row (30_encoding.md R93). -/
def OpcodeRow.selects (r : OpcodeRow) (w : Word) : Bool := w &&& r.mask == r.pattern

/-- The extra condition of the clo and clz rows (30_encoding.md R93, 40_arithmetic.md R119). -/
def OpcodeRow.condition (r : OpcodeRow) (w : Word) : Bool :=
  if r.mnemonic = "clo" ∨ r.mnemonic = "clz" then rtField w == rdField w else true

/-- The table's machine rows of the source's section 5.1. -/
def opcodeRowsArithmetic : List OpcodeRow := [
  ⟨"add", 0x00000020#32, 0xFC0007FF#32⟩,
  ⟨"addi", 0x20000000#32, 0xFC000000#32⟩,
  ⟨"addiu", 0x24000000#32, 0xFC000000#32⟩,
  ⟨"addu", 0x00000021#32, 0xFC0007FF#32⟩,
  ⟨"clo", 0x70000021#32, 0xFC0007FF#32⟩,
  ⟨"clz", 0x70000020#32, 0xFC0007FF#32⟩,
  ⟨"div", 0x0000001A#32, 0xFC00FFFF#32⟩,
  ⟨"divu", 0x0000001B#32, 0xFC00FFFF#32⟩,
  ⟨"madd", 0x70000000#32, 0xFC00FFFF#32⟩,
  ⟨"maddu", 0x70000001#32, 0xFC00FFFF#32⟩,
  ⟨"msub", 0x70000004#32, 0xFC00FFFF#32⟩,
  ⟨"msubu", 0x70000005#32, 0xFC00FFFF#32⟩,
  ⟨"mul", 0x70000002#32, 0xFC0007FF#32⟩,
  ⟨"mult", 0x00000018#32, 0xFC00FFFF#32⟩,
  ⟨"multu", 0x00000019#32, 0xFC00FFFF#32⟩,
  ⟨"slt", 0x0000002A#32, 0xFC0007FF#32⟩,
  ⟨"slti", 0x28000000#32, 0xFC000000#32⟩,
  ⟨"sltiu", 0x2C000000#32, 0xFC000000#32⟩,
  ⟨"sltu", 0x0000002B#32, 0xFC0007FF#32⟩,
  ⟨"sub", 0x00000022#32, 0xFC0007FF#32⟩,
  ⟨"subu", 0x00000023#32, 0xFC0007FF#32⟩]

/-- The table's machine rows of the source's section 5.2. -/
def opcodeRowsBranch : List OpcodeRow := [
  ⟨"beq", 0x10000000#32, 0xFC000000#32⟩,
  ⟨"bgez", 0x04010000#32, 0xFC1F0000#32⟩,
  ⟨"bgezal", 0x04110000#32, 0xFC1F0000#32⟩,
  ⟨"bgtz", 0x1C000000#32, 0xFC1F0000#32⟩,
  ⟨"blez", 0x18000000#32, 0xFC1F0000#32⟩,
  ⟨"bltz", 0x04000000#32, 0xFC1F0000#32⟩,
  ⟨"bltzal", 0x04100000#32, 0xFC1F0000#32⟩,
  ⟨"bne", 0x14000000#32, 0xFC000000#32⟩,
  ⟨"j", 0x08000000#32, 0xFC000000#32⟩,
  ⟨"jal", 0x0C000000#32, 0xFC000000#32⟩,
  ⟨"jalr", 0x00000009#32, 0xFC1F07FF#32⟩,
  ⟨"jr", 0x00000008#32, 0xFC1FFFFF#32⟩]

/-- The table's machine rows of the source's section 5.4. -/
def opcodeRowsLoad : List OpcodeRow := [
  ⟨"lb", 0x80000000#32, 0xFC000000#32⟩,
  ⟨"lbu", 0x90000000#32, 0xFC000000#32⟩,
  ⟨"lh", 0x84000000#32, 0xFC000000#32⟩,
  ⟨"lhu", 0x94000000#32, 0xFC000000#32⟩,
  ⟨"lui", 0x3C000000#32, 0xFFE00000#32⟩,
  ⟨"lw", 0x8C000000#32, 0xFC000000#32⟩]

/-- The table's machine rows of the source's section 5.5. -/
def opcodeRowsStore : List OpcodeRow := [
  ⟨"sb", 0xA0000000#32, 0xFC000000#32⟩,
  ⟨"sh", 0xA4000000#32, 0xFC000000#32⟩,
  ⟨"sw", 0xAC000000#32, 0xFC000000#32⟩]

/-- The table's machine rows of the source's section 5.6. -/
def opcodeRowsLogic : List OpcodeRow := [
  ⟨"and", 0x00000024#32, 0xFC0007FF#32⟩,
  ⟨"andi", 0x30000000#32, 0xFC000000#32⟩,
  ⟨"nor", 0x00000027#32, 0xFC0007FF#32⟩,
  ⟨"or", 0x00000025#32, 0xFC0007FF#32⟩,
  ⟨"ori", 0x34000000#32, 0xFC000000#32⟩,
  ⟨"xor", 0x00000026#32, 0xFC0007FF#32⟩,
  ⟨"xori", 0x38000000#32, 0xFC000000#32⟩]

/-- The table's machine rows of the source's section 5.7. -/
def opcodeRowsMove : List OpcodeRow := [
  ⟨"mfhi", 0x00000010#32, 0xFFFF07FF#32⟩,
  ⟨"mflo", 0x00000012#32, 0xFFFF07FF#32⟩,
  ⟨"movn", 0x0000000B#32, 0xFC0007FF#32⟩,
  ⟨"movz", 0x0000000A#32, 0xFC0007FF#32⟩,
  ⟨"mthi", 0x00000011#32, 0xFC1FFFFF#32⟩,
  ⟨"mtlo", 0x00000013#32, 0xFC1FFFFF#32⟩]

/-- The table's machine rows of the source's section 5.8. -/
def opcodeRowsShift : List OpcodeRow := [
  ⟨"sll", 0x00000000#32, 0xFFE0003F#32⟩,
  ⟨"sllv", 0x00000004#32, 0xFC0007FF#32⟩,
  ⟨"sra", 0x00000003#32, 0xFFE0003F#32⟩,
  ⟨"srav", 0x00000007#32, 0xFC0007FF#32⟩,
  ⟨"srl", 0x00000002#32, 0xFFE0003F#32⟩,
  ⟨"srlv", 0x00000006#32, 0xFC0007FF#32⟩]

/-- The table's machine rows of the source's section 5.9. -/
def opcodeRowsTrap : List OpcodeRow := [
  ⟨"break", 0x0000000D#32, 0xFC00003F#32⟩,
  ⟨"syscall", 0x0000000C#32, 0xFC00003F#32⟩,
  ⟨"teq", 0x00000034#32, 0xFC00003F#32⟩,
  ⟨"teqi", 0x040C0000#32, 0xFC1F0000#32⟩,
  ⟨"tge", 0x00000030#32, 0xFC00003F#32⟩,
  ⟨"tgei", 0x04080000#32, 0xFC1F0000#32⟩,
  ⟨"tgeiu", 0x04090000#32, 0xFC1F0000#32⟩,
  ⟨"tgeu", 0x00000031#32, 0xFC00003F#32⟩,
  ⟨"tlt", 0x00000032#32, 0xFC00003F#32⟩,
  ⟨"tlti", 0x040A0000#32, 0xFC1F0000#32⟩,
  ⟨"tltiu", 0x040B0000#32, 0xFC1F0000#32⟩,
  ⟨"tltu", 0x00000033#32, 0xFC00003F#32⟩,
  ⟨"tne", 0x00000036#32, 0xFC00003F#32⟩,
  ⟨"tnei", 0x040E0000#32, 0xFC1F0000#32⟩]

/-- The rows of the 75 distinct machine instructions. -/
def opcodeRows : List OpcodeRow :=
  opcodeRowsArithmetic ++ opcodeRowsBranch ++ opcodeRowsLoad ++ opcodeRowsStore ++ opcodeRowsLogic ++
    opcodeRowsMove ++ opcodeRowsShift ++ opcodeRowsTrap

/-- The rows of the three spellings nop, b, bal (30_encoding.md R101). -/
def aliasRows : List OpcodeRow := [
  ⟨"nop", 0x00000000#32, 0xFFFFFFFF#32⟩,
  ⟨"b", 0x10000000#32, 0xFFFF0000#32⟩,
  ⟨"bal", 0x04110000#32, 0xFFFF0000#32⟩]

end Sys2Proof
end

