-- ==== Sys2Proof/Machine/State.lean ====
section
/-! DEFINITION. Everything the spec gives the machine, as plain data (10_state.md R20, R31; 00_scope.md R7), the
reasons a step can stop, and the state after reset. -/

namespace Sys2Proof.Machine

/-- Memory: the bytes that differ from what an unlisted address reads as, addresses strictly rising
(20_memory.md R50). -/
abbrev Memory := List Host.Cell

/-- What an unlisted address reads as. The spec leaves memory outside the image unspecified (70_reset_and_hazards.md
R280); DESIGN CHOICE, unsafe (log 5). -/
def Memory.unlisted : Byte := 0#8

/-- The one canonical form: addresses below 2^32 (20_memory.md R50), strictly rising, no byte listed that an
unlisted address reads as. -/
abbrev Memory.wf (m : Memory) : Prop :=
  m.Pairwise (fun p q => p.1 < q.1) ∧ ∀ c ∈ m, c.1 < 4294967296 ∧ c.2 ≠ Memory.unlisted

/-- An exception kind with its `info` (60_exceptions.md R250). -/
inductive Cause
  /-- invalid addressing: the access and the offending address (R251) -/
  | addressError (access : Access) (addr : Word)
  /-- `break`, with bits 25..6 of the word (R252) -/
  | breakpoint (code : Code20)
  /-- `syscall`, with bits 25..6 of the word (R253) -/
  | syscall (code : Code20)
  /-- a conditional trap: bits 15..6 of a format R word, none for format I (R254) -/
  | trap (code : Option Code10)
  /-- signed overflow of add, addi, sub (R255) -/
  | integerOverflow
  /-- a word that selects no row of the opcode table (R256) -/
  | reservedInstruction (word : Word)
deriving DecidableEq, Repr

/-- The trap record (10_state.md R31): `kind` and `info` are the cause. -/
structure TrapRecord where
  /-- kind and info (60_exceptions.md R250) -/
  cause : Cause
  /-- the pc of the raising instruction (60_exceptions.md R259) -/
  epc : Word
deriving DecidableEq, Repr

/-- The state of the machine (10_state.md R20), the parameters of 00_scope.md R7 and the model's counter. -/
structure State where
  /-- the general registers by number; slot 0 is never read (10_state.md R21) -/
  regs : Vector Word 32
  /-- Hi (10_state.md R24) -/
  hi : Word
  /-- Lo (10_state.md R24) -/
  lo : Word
  /-- the address of the instruction to execute (10_state.md R25) -/
  pc : Word
  /-- the byte-addressed memory (20_memory.md R50) -/
  mem : Memory
  /-- the trap record, none while the machine runs (10_state.md R31) -/
  trap : Option TrapRecord
  /-- the maker's choices (00_scope.md R7); no step changes them (log 2, log 7, log 8, log 9) -/
  params : Params
  /-- the MODEL's own: how many free values have been drawn (log 6) -/
  draws : Nat
deriving DecidableEq, Repr

/-- Why a step stops without a next state. -/
inductive Fault
  /-- Raised by `step` alone, in a state whose trap record is set: the run has ended and no further instruction is
  fetched (10_state.md R31, 60_exceptions.md R262). The record says why. Safe. -/
  | runEnded (record : TrapRecord)
deriving DecidableEq, Repr

/-- Why an instruction has no meaning in the model. -/
inductive Refusal
  /-- The arm of `exec` rejects the instruction by name. Raised by no arm of this model: every instruction has its
  meaning. Safe. -/
  | notModelled (mnemonic : String)
deriving DecidableEq, Repr

/-- The machine right after reset (10_state.md R32, 70_reset_and_hazards.md R280), nothing placed in memory. The spec
gives x[0] = 0 and no trap; the other values are DESIGN CHOICE, unsafe: registers, Hi, Lo (log 4), pc (log 3),
parameters (log 1, log 2), counter (log 6). -/
def State.reset : State where
  regs := Vector.replicate 32 0x00000000#32
  hi := 0x00000000#32
  lo := 0x00000000#32
  pc := 0x00000000#32
  mem := []
  trap := none
  params := Params.default
  draws := 0

end Sys2Proof.Machine
end

