-- ==== Sys2Proof/Machine/Operands.lean ====
section
/-! DEFINITION. How operands are formed: extension, effective addresses, branch and jump targets, the results of the
arithmetic and shift operations. -/

namespace Sys2Proof.Machine

/-! ### Extension (00_scope.md R10) -/

/-- `sext_32` of a 16-bit immediate (30_encoding.md R86). -/
def sextImm (imm : Imm16) : Word := imm.signExtend 32

/-- `zext_32` of a 16-bit immediate (30_encoding.md R86). -/
def zextImm (imm : Imm16) : Word := imm.zeroExtend 32

/-- The immediate of addiu, sltiu, tgeiu, tltiu, by `UNSIGNED_IMM_EXT` (30_encoding.md R87). -/
def unsignedImm (p : Params) (imm : Imm16) : Word :=
  match p.unsignedImmExt with
  | .zero => zextImm imm
  | .sign => sextImm imm

/-- `sext_32` of a byte read, the low 8 bits (43_load.md R171). -/
def sextByte (v : Word) : Word := (v.setWidth 8).signExtend 32

/-- `sext_32` of a halfword read, the low 16 bits (43_load.md R173). -/
def sextHalf (v : Word) : Word := (v.setWidth 16).signExtend 32

/-! ### Addresses and targets -/

/-- `ea = (base + sext_32(imm16)) mod 2^32` (20_memory.md R68). -/
def effectiveAddress (base : Word) (imm : Imm16) : Word := base + sextImm imm

/-- `next` and `link`: the instruction after the one at `pc`, modulo 2^32 (41_branch_jump.md R140). -/
def nextPc (pc : Word) : Word := pc + 4#32

/-- `branch_target` (30_encoding.md R88, 41_branch_jump.md R140). -/
def branchTarget (pc : Word) (imm : Imm16) : Word := nextPc pc + (sextImm imm <<< 2)

/-- `jump_target`: the region of pc + 4, the field, two zero bits (30_encoding.md R89, 41_branch_jump.md R140). -/
def jumpTarget (pc : Word) (target : Target26) : Word := (nextPc pc).extractLsb' 28 4 ++ target ++ 0#2

/-! ### Arithmetic results -/

/-- The number of 0 bits from bit `n - 1` down to the first 1 bit (40_arithmetic.md R112). -/
def leadingZeros : Nat → Word → Nat
  | 0, _ => 0
  | n + 1, v => if v.getLsbD n then 0 else leadingZeros n v + 1

/-- `clz32` (40_arithmetic.md R112). -/
def clz32 (v : Word) : Word := BitVec.ofNat 32 (leadingZeros 32 v)

/-- `clo32(v) = clz32(~v)` (40_arithmetic.md R112). -/
def clo32 (v : Word) : Word := clz32 (~~~v)

/-- The exact signed product in 64 bits (40_arithmetic.md R114). -/
def signedProduct (a b : Word) : Dword := BitVec.ofInt 64 (a.toInt * b.toInt)

/-- The exact unsigned product in 64 bits (40_arithmetic.md R114). -/
def unsignedProduct (a b : Word) : Dword := BitVec.ofNat 64 (a.toNat * b.toNat)

/-- `Hi || Lo` (40_arithmetic.md R114). -/
def hiLoOf (hi lo : Word) : Dword := hi ++ lo

/-- Bits 63..32 of a 64-bit value (40_arithmetic.md R128). -/
def highWord (v : Dword) : Word := v.extractLsb' 32 32

/-- Bits 31..0 of a 64-bit value (40_arithmetic.md R128). -/
def lowWord (v : Dword) : Word := v.extractLsb' 0 32

/-- Signed quotient toward zero and its remainder, divisor not 0, quotient in range (40_arithmetic.md R113). -/
def signedDivide (a b : Word) : HiLo where
  hi := BitVec.ofInt 32 (a.toInt - a.toInt.tdiv b.toInt * b.toInt)
  lo := BitVec.ofInt 32 (a.toInt.tdiv b.toInt)

/-- Unsigned quotient and remainder, divisor not 0 (40_arithmetic.md R113). -/
def unsignedDivide (a b : Word) : HiLo where
  hi := BitVec.ofNat 32 (a.toNat - a.toNat / b.toNat * b.toNat)
  lo := BitVec.ofNat 32 (a.toNat / b.toNat)

/-! ### Shifts by 0 to 31 (47_shift.md R210) -/

/-- The count of a variable shift: bits 4..0 of the register (47_shift.md R210). -/
def shiftCount (v : Word) : Shamt := v.extractLsb' 0 5

/-- Left logical: zeros enter at bit 0 (47_shift.md R211). -/
def shiftLeft (v : Word) (n : Shamt) : Word := v <<< n.toNat

/-- Right logical: zeros enter at bit 31 (47_shift.md R215). -/
def shiftRightLogical (v : Word) (n : Shamt) : Word := v >>> n.toNat

/-- Right arithmetic: copies of bit 31 enter at bit 31 (47_shift.md R213). -/
def shiftRightArithmetic (v : Word) (n : Shamt) : Word := v.sshiftRight n.toNat

end Sys2Proof.Machine
end

