-- ==== Sys2Proof/Machine/Flags.lean ====
section
/-! DEFINITION. The machine has no flags register (10_state.md R28). What stands in a flag's place: the overflow
condition that raises an exception, and the comparisons whose answer is 0 or 1, a branch or a trap. -/

namespace Sys2Proof.Machine

/-- An exact integer outside -2^31 .. 2^31 - 1 (40_arithmetic.md R111). -/
def outsideWord (n : Int) : Bool := decide (n < -2147483648 ∨ 2147483647 < n)

/-- Signed overflow of a sum (40_arithmetic.md R115, R116). -/
def addOverflows (a b : Word) : Bool := outsideWord (a.toInt + b.toInt)

/-- Signed overflow of a difference (40_arithmetic.md R134). -/
def subOverflows (a b : Word) : Bool := outsideWord (a.toInt - b.toInt)

/-- `signed(a) < signed(b)`, on the exact integers (40_arithmetic.md R130). -/
def lessSigned (a b : Word) : Bool := decide (a.toInt < b.toInt)

/-- `a < b`, unsigned (40_arithmetic.md R133). -/
def lessUnsigned (a b : Word) : Bool := decide (a.toNat < b.toNat)

/-- `signed(a) >= signed(b)` (48_trap.md R226). -/
def geSigned (a b : Word) : Bool := decide (b.toInt ≤ a.toInt)

/-- `a >= b`, unsigned (48_trap.md R229). -/
def geUnsigned (a b : Word) : Bool := decide (b.toNat ≤ a.toNat)

/-- A comparison's answer in a register: 1 or 0 (40_arithmetic.md R110). -/
def truthWord (c : Bool) : Word := if c then 1#32 else 0#32

end Sys2Proof.Machine
end

