-- ==== Sys2Proof/Machine/Ops.lean ====
section
/-! DEFINITION. The named operations over registers and memory, taking an exception, and the shapes that the
meanings share. -/

namespace Sys2Proof.Machine

/-- What a meaning answers. -/
abbrev Result := Host.Outcome State Fault Refusal

/-! ### Registers (00_scope.md R11, 10_state.md R21) -/

/-- `x[r]`; register 0 always reads 0 (10_state.md R21). -/
def State.reg (s : State) (r : RegNum) : Word := if r = 0#5 then 0#32 else s.regs[r.toNat]

/-- `x[r] <- v`; a write to register 0 is discarded (10_state.md R21). -/
def State.setReg (s : State) (r : RegNum) (v : Word) : State :=
  { s with regs := if r = 0#5 then s.regs else s.regs.set r.toNat v }

/-- `Hi <- hi; Lo <- lo` (10_state.md R24). -/
def State.setHiLo (s : State) (v : HiLo) : State := { s with hi := v.hi, lo := v.lo }

/-- `Hi || Lo` (10_state.md R24). -/
def State.hiLo (s : State) : Dword := hiLoOf s.hi s.lo

/-- Hi and Lo each take any value: two fresh free values (40_arithmetic.md R113; log 6). -/
def State.drawHiLo (s : State) : State :=
  { s with hi := Config.freeWord s.draws, lo := Config.freeWord (s.draws + 1), draws := s.draws + 2 }

/-- `pc <- target` (00_scope.md R11). -/
def State.goto (s : State) (target : Word) : State := { s with pc := target }

/-- `pc <- pc + 4` modulo 2^32 (10_state.md R26). -/
def State.advance (s : State) : State := s.goto (nextPc s.pc)

/-! ### Bytes of memory (20_memory.md R50, R60) -/

/-- The byte stored at an address. -/
def Memory.readByte : Memory → Nat → Byte
  | [], _ => Memory.unlisted
  | (k, b) :: m, a => if k = a then b else Memory.readByte m a

/-- No entry for the address. -/
def Memory.eraseAt : Memory → Nat → Memory
  | [], _ => []
  | (k, b) :: m, a => if k = a then Memory.eraseAt m a else (k, b) :: Memory.eraseAt m a

/-- An entry for an address that has none, in its place. -/
def Memory.insertAt : Memory → Nat → Byte → Memory
  | [], a, v => [(a, v)]
  | (k, b) :: m, a, v => if a < k then (a, v) :: (k, b) :: m else (k, b) :: Memory.insertAt m a v

/-- Replaces the byte at an address; the value an unlisted address reads as is not listed. -/
def Memory.writeByte (m : Memory) (a : Nat) (v : Byte) : Memory :=
  if v = Memory.unlisted then m.eraseAt a else (m.eraseAt a).insertAt a v

/-- The `n` bytes from address `a` on, lowest address first. -/
def Memory.readBytes (m : Memory) (a : Nat) : Nat → List Byte
  | 0 => []
  | n + 1 => m.readByte a :: Memory.readBytes m (a + 1) n

/-- Replaces the bytes from address `a` on. -/
def Memory.writeBytes (m : Memory) (a : Nat) : List Byte → Memory
  | [] => m
  | b :: bs => Memory.writeBytes (m.writeByte a b) (a + 1) bs

/-! ### Accesses (20_memory.md R54, R55, R56, R58) -/

/-- The width of an access (20_memory.md R60). -/
inductive Width
  | byte
  | half
  | word
deriving DecidableEq, Repr

/-- How many bytes an access moves (20_memory.md R60). -/
def Width.bytes : Width → Nat
  | .byte => 1
  | .half => 2
  | .word => 4

/-- The region has the byte at `a` and admits the access (20_memory.md R58). -/
def Region.admits (r : Region) (access : Access) (a : Nat) : Bool :=
  decide (r.base ≤ a ∧ a < r.base + r.size) &&
    match access with
    | .fetch => r.fetch
    | .load => r.load
    | .store => r.store

/-- `MEM_VALID(addr, n, access)`: each of the `n` bytes is admitted by some region (20_memory.md R58; log 2). -/
def memValid (p : Params) (a n : Nat) (access : Access) : Bool :=
  (List.range n).all fun k => p.validRegions.any fun r => Region.admits r access (a + k)

/-- The address is a multiple of the width (20_memory.md R56). -/
def aligned (w : Width) (a : Word) : Bool := a.toNat % w.bytes == 0

/-- The checks that come before an access: alignment, then validity, one exception for both (20_memory.md R54). -/
def accessError (s : State) (access : Access) (w : Width) (a : Word) : Option Cause :=
  if !aligned w a then some (.addressError access a)
  else if !memValid s.params a.toNat w.bytes access then some (.addressError access a)
  else none

/-- The value of the bytes at `a` in the machine's byte order, extended with zeros (20_memory.md R54). -/
def State.valueAt (s : State) (w : Width) (a : Word) : Word :=
  joinBytes (byteOrder s.params.endian (s.mem.readBytes a.toNat w.bytes))

/-- The low bytes of `v` stored at `a` in the machine's byte order (20_memory.md R55). -/
def State.storeAt (s : State) (w : Width) (a v : Word) : State :=
  { s with mem := s.mem.writeBytes a.toNat (byteOrder s.params.endian (splitBytes w.bytes v)) }

/-- `MemRead(addr, n)` (20_memory.md R54). -/
def memRead (s : State) (access : Access) (w : Width) (a : Word) : Except Cause Word :=
  match accessError s access w a with
  | some c => .error c
  | none => .ok (s.valueAt w a)

/-- `MemWrite(addr, n, v)` (20_memory.md R55). -/
def memWrite (s : State) (w : Width) (a v : Word) : Except Cause State :=
  match accessError s .store w a with
  | some c => .error c
  | none => .ok (s.storeAt w a v)

/-! ### Exceptions (60_exceptions.md) -/

/-- The state after an exception is taken: the trap record holds the cause and the pc, all else stays as it was
(60_exceptions.md R259, R262, R263). -/
def State.raised (s : State) (c : Cause) : State := { s with trap := some { cause := c, epc := s.pc } }

/-- Taking an exception (60_exceptions.md R262). -/
def raise (c : Cause) (s : State) : Result := .next (s.raised c)

/-- Resuming at an address of the platform handler's choice: the run goes on (60_exceptions.md R264). No instruction
does this. -/
def State.resumeAt (s : State) (target : Word) : State := { s with trap := none, pc := target }

/-! ### Fetch and decode (00_scope.md R17, steps 1 to 3) -/

/-- The instruction at pc, or the exception of the fetch or of the decoder (00_scope.md R17, 60_exceptions.md R261). -/
def fetchDecode (s : State) : Except Cause Instr :=
  match memRead s .fetch .word s.pc with
  | .error c => .error c
  | .ok word =>
    match decode word with
    | .error _ => .error (.reservedInstruction word)
    | .ok i => .ok i

/-- The parameters with the word at `a` valid for fetch, unchanged where it is already. -/
def withFetchable (p : Params) (a : Word) : Params :=
  if memValid p a.toNat 4 .fetch then p
  else { p with validRegions :=
    { base := a.toNat, size := 4, fetch := true, load := false, store := false } :: p.validRegions }

/-- `pc` rounded down to a multiple of 4, unchanged where it is one (10_state.md R27). -/
def fetchablePc (pc : Word) : Word := pc &&& 0xFFFFFFFC#32

/-- The state with a word placed where the next step fetches: at pc, in the machine's byte order, with what the fetch
needs (a machine that runs, an aligned pc, a word valid for fetch) and nothing else. -/
def State.placeWord (s : State) (word : Word) : State :=
  let a := fetchablePc s.pc
  { s with
    pc := a
    trap := none
    params := withFetchable s.params a
    mem := s.mem.writeBytes a.toNat (wordBytes s.params.endian word) }

/-! ### Shapes shared by the meanings -/

/-- `x[rd] <- v; pc <- pc + 4`. -/
def writeBack (rd : RegNum) (v : Word) (s : State) : Result := .next (s.setReg rd v).advance

/-- `Hi <- v.hi; Lo <- v.lo; pc <- pc + 4`. -/
def writeHiLo (v : HiLo) (s : State) : Result := .next (s.setHiLo v).advance

/-- `Hi <- v[63:32]; Lo <- v[31:0]; pc <- pc + 4` (40_arithmetic.md R114). -/
def writeDword (v : Dword) (s : State) : Result := writeHiLo { hi := highWord v, lo := lowWord v } s

/-- Hi and Lo take any value, `pc <- pc + 4` (40_arithmetic.md R113; log 6). -/
def anyHiLo (s : State) : Result := .next s.drawHiLo.advance

/-- A load: the checks, the access, the extension, the write of `x[rt]` (43_load.md R170). -/
def loadInto (w : Width) (extend : Word → Word) (rt rs : RegNum) (imm : Imm16) (s : State) : Result :=
  match memRead s .load w (effectiveAddress (s.reg rs) imm) with
  | .error c => raise c s
  | .ok v => writeBack rt (extend v) s

/-- A store of the low bytes of `x[rt]` (44_store.md R180). -/
def storeFrom (w : Width) (rt rs : RegNum) (imm : Imm16) (s : State) : Result :=
  match memWrite s w (effectiveAddress (s.reg rs) imm) (s.reg rt) with
  | .error c => raise c s
  | .ok t => .next t.advance

/-- `if c then pc <- branch_target else pc <- next` (41_branch_jump.md R140). -/
def branchIf (c : Bool) (imm : Imm16) (s : State) : Result :=
  .next (s.goto (if c then branchTarget s.pc imm else nextPc s.pc))

/-- The same after `x[31] <- link`, taken or not (41_branch_jump.md R146, R150). -/
def branchLinkIf (c : Bool) (imm : Imm16) (s : State) : Result :=
  branchIf c imm (s.setReg 31#5 (nextPc s.pc))

/-- `if c then raise Trap(code)`, else `pc <- pc + 4` (48_trap.md R220). -/
def trapIf (c : Bool) (code : Option Code10) (s : State) : Result :=
  if c then raise (.trap code) s else .next s.advance

end Sys2Proof.Machine
end

