-- ==== Sys2Proof/Machine/Arithmetic.lean ====
section
/-! DEFINITION. The arithmetic instructions (40_arithmetic.md, source section 5.1).
One meaning for each, over the shared operations. -/

namespace Sys2Proof.Machine

/-- `add rd, rs, rt` (40_arithmetic.md R115): `x[rd] <- s mod 2^32`, `IntegerOverflow` out of range. -/
def execAdd (rd rs rt : RegNum) (s : State) : Result :=
  if addOverflows (s.reg rs) (s.reg rt) then raise .integerOverflow s else writeBack rd (s.reg rs + s.reg rt) s

/-- `addi rt, rs, imm` (40_arithmetic.md R116): `x[rt] <- s mod 2^32`, `IntegerOverflow` out of range. -/
def execAddi (rt rs : RegNum) (imm : Imm16) (s : State) : Result :=
  if addOverflows (s.reg rs) (sextImm imm) then raise .integerOverflow s else writeBack rt (s.reg rs + sextImm imm) s

/-- `addiu rt, rs, imm` (40_arithmetic.md R117): wraps; the immediate by `UNSIGNED_IMM_EXT`. -/
def execAddiu (rt rs : RegNum) (imm : Imm16) (s : State) : Result :=
  writeBack rt (s.reg rs + unsignedImm s.params imm) s

/-- `addu rd, rs, rt` (40_arithmetic.md R118). -/
def execAddu (rd rs rt : RegNum) (s : State) : Result := writeBack rd (s.reg rs + s.reg rt) s

/-- `clo rd, rs` (40_arithmetic.md R119). -/
def execClo (rd rs : RegNum) (s : State) : Result := writeBack rd (clo32 (s.reg rs)) s

/-- `clz rd, rs` (40_arithmetic.md R120). -/
def execClz (rd rs : RegNum) (s : State) : Result := writeBack rd (clz32 (s.reg rs)) s

/-- `div rs, rt` (40_arithmetic.md R121): quotient to Lo, remainder to Hi; divisor 0: any
values; -2^31 by -1: `DIV_OVERFLOW`. -/
def execDiv (rs rt : RegNum) (s : State) : Result :=
  if s.reg rt = 0#32 then anyHiLo s
  else if s.reg rs = 0x80000000#32 ∧ s.reg rt = 0xFFFFFFFF#32 then writeHiLo s.params.divOverflow s
  else writeHiLo (signedDivide (s.reg rs) (s.reg rt)) s

/-- `divu rs, rt` (40_arithmetic.md R122): quotient to Lo, remainder to Hi; divisor 0: any values. -/
def execDivu (rs rt : RegNum) (s : State) : Result :=
  if s.reg rt = 0#32 then anyHiLo s else writeHiLo (unsignedDivide (s.reg rs) (s.reg rt)) s

/-- `madd rs, rt` (40_arithmetic.md R123). -/
def execMadd (rs rt : RegNum) (s : State) : Result := writeDword (s.hiLo + signedProduct (s.reg rs) (s.reg rt)) s

/-- `maddu rs, rt` (40_arithmetic.md R124). -/
def execMaddu (rs rt : RegNum) (s : State) : Result := writeDword (s.hiLo + unsignedProduct (s.reg rs) (s.reg rt)) s

/-- `msub rs, rt` (40_arithmetic.md R125). -/
def execMsub (rs rt : RegNum) (s : State) : Result := writeDword (s.hiLo - signedProduct (s.reg rs) (s.reg rt)) s

/-- `msubu rs, rt` (40_arithmetic.md R126). -/
def execMsubu (rs rt : RegNum) (s : State) : Result := writeDword (s.hiLo - unsignedProduct (s.reg rs) (s.reg rt)) s

/-- `mul rd, rs, rt` (40_arithmetic.md R127): bits 31..0 of the product; Hi, Lo by `MUL_HILO`. -/
def execMul (rd rs rt : RegNum) (s : State) : Result :=
  match s.params.mulHiLo with
  | .unchanged => writeBack rd (lowWord (signedProduct (s.reg rs) (s.reg rt))) s
  | .any => writeBack rd (lowWord (signedProduct (s.reg rs) (s.reg rt))) s.drawHiLo

/-- `mult rs, rt` (40_arithmetic.md R128). -/
def execMult (rs rt : RegNum) (s : State) : Result := writeDword (signedProduct (s.reg rs) (s.reg rt)) s

/-- `multu rs, rt` (40_arithmetic.md R129). -/
def execMultu (rs rt : RegNum) (s : State) : Result := writeDword (unsignedProduct (s.reg rs) (s.reg rt)) s

/-- `slt rd, rs, rt` (40_arithmetic.md R130). -/
def execSlt (rd rs rt : RegNum) (s : State) : Result := writeBack rd (truthWord (lessSigned (s.reg rs) (s.reg rt))) s

/-- `slti rt, rs, imm` (40_arithmetic.md R131). -/
def execSlti (rt rs : RegNum) (imm : Imm16) (s : State) : Result :=
  writeBack rt (truthWord (lessSigned (s.reg rs) (sextImm imm))) s

/-- `sltiu rt, rs, imm` (40_arithmetic.md R132). -/
def execSltiu (rt rs : RegNum) (imm : Imm16) (s : State) : Result :=
  writeBack rt (truthWord (lessUnsigned (s.reg rs) (unsignedImm s.params imm))) s

/-- `sltu rd, rs, rt` (40_arithmetic.md R133). -/
def execSltu (rd rs rt : RegNum) (s : State) : Result :=
  writeBack rd (truthWord (lessUnsigned (s.reg rs) (s.reg rt))) s

/-- `sub rd, rs, rt` (40_arithmetic.md R134): `x[rd] <- d mod 2^32`, `IntegerOverflow` out of range. -/
def execSub (rd rs rt : RegNum) (s : State) : Result :=
  if subOverflows (s.reg rs) (s.reg rt) then raise .integerOverflow s else writeBack rd (s.reg rs - s.reg rt) s

/-- `subu rd, rs, rt` (40_arithmetic.md R135). -/
def execSubu (rd rs rt : RegNum) (s : State) : Result := writeBack rd (s.reg rs - s.reg rt) s

end Sys2Proof.Machine
end

