-- ==== Sys2Proof/Machine/Branch.lean ====
section
/-! DEFINITION. The branch and jump instructions (41_branch_jump.md, source section 5.2). No delay slot (R140).
One meaning for each, over the shared operations. -/

namespace Sys2Proof.Machine

/-- `beq rs, rt, imm` (41_branch_jump.md R144). -/
def execBeq (rs rt : RegNum) (imm : Imm16) (s : State) : Result := branchIf (s.reg rs == s.reg rt) imm s

/-- `bgez rs, imm` (41_branch_jump.md R145). -/
def execBgez (rs : RegNum) (imm : Imm16) (s : State) : Result := branchIf (geSigned (s.reg rs) 0#32) imm s

/-- `bgezal rs, imm` (41_branch_jump.md R146): the register is read before the link is written. -/
def execBgezal (rs : RegNum) (imm : Imm16) (s : State) : Result := branchLinkIf (geSigned (s.reg rs) 0#32) imm s

/-- `bgtz rs, imm` (41_branch_jump.md R147). -/
def execBgtz (rs : RegNum) (imm : Imm16) (s : State) : Result := branchIf (lessSigned 0#32 (s.reg rs)) imm s

/-- `blez rs, imm` (41_branch_jump.md R148). -/
def execBlez (rs : RegNum) (imm : Imm16) (s : State) : Result := branchIf (geSigned 0#32 (s.reg rs)) imm s

/-- `bltz rs, imm` (41_branch_jump.md R149). -/
def execBltz (rs : RegNum) (imm : Imm16) (s : State) : Result := branchIf (lessSigned (s.reg rs) 0#32) imm s

/-- `bltzal rs, imm` (41_branch_jump.md R150): the register is read before the link is written. -/
def execBltzal (rs : RegNum) (imm : Imm16) (s : State) : Result := branchLinkIf (lessSigned (s.reg rs) 0#32) imm s

/-- `bne rs, rt, imm` (41_branch_jump.md R151). -/
def execBne (rs rt : RegNum) (imm : Imm16) (s : State) : Result := branchIf (s.reg rs != s.reg rt) imm s

/-- `j imm` (41_branch_jump.md R152). -/
def execJ (target : Target26) (s : State) : Result := .next (s.goto (jumpTarget s.pc target))

/-- `jal imm` (41_branch_jump.md R153). -/
def execJal (target : Target26) (s : State) : Result :=
  .next ((s.setReg 31#5 (nextPc s.pc)).goto (jumpTarget s.pc target))

/-- `jalr rd, rs` (41_branch_jump.md R154): the target is read before the link is written. -/
def execJalr (rd rs : RegNum) (s : State) : Result := .next ((s.setReg rd (nextPc s.pc)).goto (s.reg rs))

/-- `jr rs` (41_branch_jump.md R155): all 32 bits of the register. -/
def execJr (rs : RegNum) (s : State) : Result := .next (s.goto (s.reg rs))

/-- `b imm` (41_branch_jump.md R142): an alias of `beq $0, $0, imm`. -/
def execB (imm : Imm16) (s : State) : Result := branchIf true imm s

/-- `bal $31, imm` (41_branch_jump.md R143): an alias of `bgezal $0, imm`. -/
def execBal (imm : Imm16) (s : State) : Result := branchLinkIf true imm s

end Sys2Proof.Machine
end

