-- ==== Sys2Proof/Machine/Control.lean ====
section
/-! DEFINITION. The control instruction (42_control.md, source section 5.3).
One meaning for each, over the shared operations. -/

namespace Sys2Proof.Machine

/-- `nop` (42_control.md R165): an alias of `sll $0, $0, 0`. -/
def execNop (s : State) : Result := .next s.advance

end Sys2Proof.Machine
end

