-- ==== Sys2Proof/Machine/Load.lean ====
section
/-! DEFINITION. The load instructions (43_load.md, source section 5.4).
One meaning for each, over the shared operations. -/

namespace Sys2Proof.Machine

/-- `lb rt, imm($rs)` (43_load.md R171): sign-extended byte. -/
def execLb (rt rs : RegNum) (imm : Imm16) (s : State) : Result := loadInto .byte sextByte rt rs imm s

/-- `lbu rt, imm($rs)` (43_load.md R172): zero-extended byte. -/
def execLbu (rt rs : RegNum) (imm : Imm16) (s : State) : Result := loadInto .byte id rt rs imm s

/-- `lh rt, imm($rs)` (43_load.md R173): sign-extended halfword. -/
def execLh (rt rs : RegNum) (imm : Imm16) (s : State) : Result := loadInto .half sextHalf rt rs imm s

/-- `lhu rt, imm($rs)` (43_load.md R174): zero-extended halfword. -/
def execLhu (rt rs : RegNum) (imm : Imm16) (s : State) : Result := loadInto .half id rt rs imm s

/-- `lui rt, imm` (43_load.md R175): `imm16 || 0^16`. -/
def execLui (rt : RegNum) (imm : Imm16) (s : State) : Result := writeBack rt (imm ++ 0#16) s

/-- `lw rt, imm($rs)` (43_load.md R176): word. -/
def execLw (rt rs : RegNum) (imm : Imm16) (s : State) : Result := loadInto .word id rt rs imm s

end Sys2Proof.Machine
end

