-- ==== Sys2Proof/Machine/Logic.lean ====
section
/-! DEFINITION. The logic instructions (45_logic.md, source section 5.6).
One meaning for each, over the shared operations. -/

namespace Sys2Proof.Machine

/-- `and rd, rs, rt` (45_logic.md R191). -/
def execAnd (rd rs rt : RegNum) (s : State) : Result := writeBack rd (s.reg rs &&& s.reg rt) s

/-- `andi rt, rs, imm` (45_logic.md R192). -/
def execAndi (rt rs : RegNum) (imm : Imm16) (s : State) : Result := writeBack rt (s.reg rs &&& zextImm imm) s

/-- `nor rd, rs, rt` (45_logic.md R193). -/
def execNor (rd rs rt : RegNum) (s : State) : Result := writeBack rd (~~~(s.reg rs ||| s.reg rt)) s

/-- `or rd, rs, rt` (45_logic.md R194). -/
def execOr (rd rs rt : RegNum) (s : State) : Result := writeBack rd (s.reg rs ||| s.reg rt) s

/-- `ori rt, rs, imm` (45_logic.md R195). -/
def execOri (rt rs : RegNum) (imm : Imm16) (s : State) : Result := writeBack rt (s.reg rs ||| zextImm imm) s

/-- `xor rd, rs, rt` (45_logic.md R196). -/
def execXor (rd rs rt : RegNum) (s : State) : Result := writeBack rd (s.reg rs ^^^ s.reg rt) s

/-- `xori rt, rs, imm` (45_logic.md R197). -/
def execXori (rt rs : RegNum) (imm : Imm16) (s : State) : Result := writeBack rt (s.reg rs ^^^ zextImm imm) s

end Sys2Proof.Machine
end

