-- ==== Sys2Proof/Machine/Move.lean ====
section
/-! DEFINITION. The copy instructions (46_move.md, source section 5.7).
One meaning for each, over the shared operations. -/

namespace Sys2Proof.Machine

/-- `mfhi rd` (46_move.md R201). -/
def execMfhi (rd : RegNum) (s : State) : Result := writeBack rd s.hi s

/-- `mflo rd` (46_move.md R202). -/
def execMflo (rd : RegNum) (s : State) : Result := writeBack rd s.lo s

/-- `movn rd, rs, rt` (46_move.md R203): moves when `x[rt]` is not 0, else keeps `x[rd]`. -/
def execMovn (rd rs rt : RegNum) (s : State) : Result :=
  if s.reg rt ≠ 0#32 then writeBack rd (s.reg rs) s else .next s.advance

/-- `movz rd, rs, rt` (46_move.md R204): moves when `x[rt]` is 0, else keeps `x[rd]`. -/
def execMovz (rd rs rt : RegNum) (s : State) : Result :=
  if s.reg rt = 0#32 then writeBack rd (s.reg rs) s else .next s.advance

/-- `mthi rs` (46_move.md R205). -/
def execMthi (rs : RegNum) (s : State) : Result := writeHiLo { hi := s.reg rs, lo := s.lo } s

/-- `mtlo rs` (46_move.md R206). -/
def execMtlo (rs : RegNum) (s : State) : Result := writeHiLo { hi := s.hi, lo := s.reg rs } s

end Sys2Proof.Machine
end

