-- ==== Sys2Proof/Machine/Pseudo.lean ====
section
/-! DEFINITION. The pseudo-instructions (49_pseudo.md, source section 5.10): the machine never sees one (R240);
the meaning is the effect of its two words (log 13). One meaning for each, over the shared operations. -/

namespace Sys2Proof.Machine

/-- What lui and then ori leave in `rd` (49_pseudo.md R241). -/
def loadImmediateValue (imm32 : Word) : Word :=
  (imm32.extractLsb' 16 16 ++ 0#16) ||| zextImm (imm32.extractLsb' 0 16)

/-- `li rd, imm32` (49_pseudo.md R241): `lui rd, imm32[31:16]` then `ori rd, rd, imm32[15:0]`, two words on. -/
def execLi (rd : RegNum) (imm32 : Word) (s : State) : Result :=
  .next ((s.setReg rd (loadImmediateValue imm32)).goto (nextPc (nextPc s.pc)))

/-- `la rd, imm32` (49_pseudo.md R242): the same effect as `li`, its operand an address. -/
def execLa (rd : RegNum) (imm32 : Word) (s : State) : Result :=
  .next ((s.setReg rd (loadImmediateValue imm32)).goto (nextPc (nextPc s.pc)))

end Sys2Proof.Machine
end

