-- ==== Sys2Proof/Machine/Shift.lean ====
section
/-! DEFINITION. The shift instructions (47_shift.md, source section 5.8).
One meaning for each, over the shared operations. -/

namespace Sys2Proof.Machine

/-- `sll rd, rt, shamt` (47_shift.md R211). -/
def execSll (rd rt : RegNum) (shamt : Shamt) (s : State) : Result := writeBack rd (shiftLeft (s.reg rt) shamt) s

/-- `sllv rd, rt, rs` (47_shift.md R212). -/
def execSllv (rd rt rs : RegNum) (s : State) : Result := writeBack rd (shiftLeft (s.reg rt) (shiftCount (s.reg rs))) s

/-- `sra rd, rt, shamt` (47_shift.md R213). -/
def execSra (rd rt : RegNum) (shamt : Shamt) (s : State) : Result :=
  writeBack rd (shiftRightArithmetic (s.reg rt) shamt) s

/-- `srav rd, rt, rs` (47_shift.md R214). -/
def execSrav (rd rt rs : RegNum) (s : State) : Result :=
  writeBack rd (shiftRightArithmetic (s.reg rt) (shiftCount (s.reg rs))) s

/-- `srl rd, rt, shamt` (47_shift.md R215). -/
def execSrl (rd rt : RegNum) (shamt : Shamt) (s : State) : Result :=
  writeBack rd (shiftRightLogical (s.reg rt) shamt) s

/-- `srlv rd, rt, rs` (47_shift.md R216). -/
def execSrlv (rd rt rs : RegNum) (s : State) : Result :=
  writeBack rd (shiftRightLogical (s.reg rt) (shiftCount (s.reg rs))) s

end Sys2Proof.Machine
end

