-- ==== Sys2Proof/Machine/Store.lean ====
section
/-! DEFINITION. The store instructions (44_store.md, source section 5.5).
One meaning for each, over the shared operations. -/

namespace Sys2Proof.Machine

/-- `sb rt, imm($rs)` (44_store.md R181): bits 7..0. -/
def execSb (rt rs : RegNum) (imm : Imm16) (s : State) : Result := storeFrom .byte rt rs imm s

/-- `sh rt, imm($rs)` (44_store.md R182): bits 15..0. -/
def execSh (rt rs : RegNum) (imm : Imm16) (s : State) : Result := storeFrom .half rt rs imm s

/-- `sw rt, imm($rs)` (44_store.md R183): the whole word. -/
def execSw (rt rs : RegNum) (imm : Imm16) (s : State) : Result := storeFrom .word rt rs imm s

end Sys2Proof.Machine
end

