-- ==== Sys2Proof/Machine/Trap.lean ====
section
/-! DEFINITION. The trap instructions (48_trap.md, source section 5.9).
One meaning for each, over the shared operations. -/

namespace Sys2Proof.Machine

/-- `break` (48_trap.md R222). -/
def execBreak (code : Code20) (s : State) : Result := raise (.breakpoint code) s

/-- `syscall` (48_trap.md R223). -/
def execSyscall (code : Code20) (s : State) : Result := raise (.syscall code) s

/-- `teq rs, rt` (48_trap.md R224). -/
def execTeq (rs rt : RegNum) (code : Code10) (s : State) : Result := trapIf (s.reg rs == s.reg rt) (some code) s

/-- `teqi rs, imm` (48_trap.md R225). -/
def execTeqi (rs : RegNum) (imm : Imm16) (s : State) : Result := trapIf (s.reg rs == sextImm imm) none s

/-- `tge rs, rt` (48_trap.md R226). -/
def execTge (rs rt : RegNum) (code : Code10) (s : State) : Result :=
  trapIf (geSigned (s.reg rs) (s.reg rt)) (some code) s

/-- `tgei rs, imm` (48_trap.md R227). -/
def execTgei (rs : RegNum) (imm : Imm16) (s : State) : Result := trapIf (geSigned (s.reg rs) (sextImm imm)) none s

/-- `tgeiu rs, imm` (48_trap.md R228). -/
def execTgeiu (rs : RegNum) (imm : Imm16) (s : State) : Result :=
  trapIf (geUnsigned (s.reg rs) (unsignedImm s.params imm)) none s

/-- `tgeu rs, rt` (48_trap.md R229). -/
def execTgeu (rs rt : RegNum) (code : Code10) (s : State) : Result :=
  trapIf (geUnsigned (s.reg rs) (s.reg rt)) (some code) s

/-- `tlt rs, rt` (48_trap.md R230). -/
def execTlt (rs rt : RegNum) (code : Code10) (s : State) : Result :=
  trapIf (lessSigned (s.reg rs) (s.reg rt)) (some code) s

/-- `tlti rs, imm` (48_trap.md R231). -/
def execTlti (rs : RegNum) (imm : Imm16) (s : State) : Result := trapIf (lessSigned (s.reg rs) (sextImm imm)) none s

/-- `tltiu rs, imm` (48_trap.md R232). -/
def execTltiu (rs : RegNum) (imm : Imm16) (s : State) : Result :=
  trapIf (lessUnsigned (s.reg rs) (unsignedImm s.params imm)) none s

/-- `tltu rs, rt` (48_trap.md R233). -/
def execTltu (rs rt : RegNum) (code : Code10) (s : State) : Result :=
  trapIf (lessUnsigned (s.reg rs) (s.reg rt)) (some code) s

/-- `tne rs, rt` (48_trap.md R234). -/
def execTne (rs rt : RegNum) (code : Code10) (s : State) : Result := trapIf (s.reg rs != s.reg rt) (some code) s

/-- `tnei rs, imm` (48_trap.md R235). -/
def execTnei (rs : RegNum) (imm : Imm16) (s : State) : Result := trapIf (s.reg rs != sextImm imm) none s

end Sys2Proof.Machine
end

