-- ==== Sys2Proof/Machine/Dispatch.lean ====
section
/-! DEFINITION. Which meaning each instruction has: one arm per constructor (00_scope.md R17, step 5). -/

namespace Sys2Proof.Machine

def exec (i : Instr) (s : State) : Host.Outcome State Fault Refusal :=
  match i with
  | .add rd rs rt => Sys2Proof.Machine.execAdd rd rs rt s
  | .addi rt rs imm => Sys2Proof.Machine.execAddi rt rs imm s
  | .addiu rt rs imm => Sys2Proof.Machine.execAddiu rt rs imm s
  | .addu rd rs rt => Sys2Proof.Machine.execAddu rd rs rt s
  | .clo rd rs => Sys2Proof.Machine.execClo rd rs s
  | .clz rd rs => Sys2Proof.Machine.execClz rd rs s
  | .div rs rt => Sys2Proof.Machine.execDiv rs rt s
  | .divu rs rt => Sys2Proof.Machine.execDivu rs rt s
  | .madd rs rt => Sys2Proof.Machine.execMadd rs rt s
  | .maddu rs rt => Sys2Proof.Machine.execMaddu rs rt s
  | .msub rs rt => Sys2Proof.Machine.execMsub rs rt s
  | .msubu rs rt => Sys2Proof.Machine.execMsubu rs rt s
  | .mul rd rs rt => Sys2Proof.Machine.execMul rd rs rt s
  | .mult rs rt => Sys2Proof.Machine.execMult rs rt s
  | .multu rs rt => Sys2Proof.Machine.execMultu rs rt s
  | .slt rd rs rt => Sys2Proof.Machine.execSlt rd rs rt s
  | .slti rt rs imm => Sys2Proof.Machine.execSlti rt rs imm s
  | .sltiu rt rs imm => Sys2Proof.Machine.execSltiu rt rs imm s
  | .sltu rd rs rt => Sys2Proof.Machine.execSltu rd rs rt s
  | .sub rd rs rt => Sys2Proof.Machine.execSub rd rs rt s
  | .subu rd rs rt => Sys2Proof.Machine.execSubu rd rs rt s
  | .beq rs rt imm => Sys2Proof.Machine.execBeq rs rt imm s
  | .bgez rs imm => Sys2Proof.Machine.execBgez rs imm s
  | .bgezal rs imm => Sys2Proof.Machine.execBgezal rs imm s
  | .bgtz rs imm => Sys2Proof.Machine.execBgtz rs imm s
  | .blez rs imm => Sys2Proof.Machine.execBlez rs imm s
  | .bltz rs imm => Sys2Proof.Machine.execBltz rs imm s
  | .bltzal rs imm => Sys2Proof.Machine.execBltzal rs imm s
  | .bne rs rt imm => Sys2Proof.Machine.execBne rs rt imm s
  | .j target => Sys2Proof.Machine.execJ target s
  | .jal target => Sys2Proof.Machine.execJal target s
  | .jalr rd rs => Sys2Proof.Machine.execJalr rd rs s
  | .jr rs => Sys2Proof.Machine.execJr rs s
  | .lb rt rs imm => Sys2Proof.Machine.execLb rt rs imm s
  | .lbu rt rs imm => Sys2Proof.Machine.execLbu rt rs imm s
  | .lh rt rs imm => Sys2Proof.Machine.execLh rt rs imm s
  | .lhu rt rs imm => Sys2Proof.Machine.execLhu rt rs imm s
  | .lui rt imm => Sys2Proof.Machine.execLui rt imm s
  | .lw rt rs imm => Sys2Proof.Machine.execLw rt rs imm s
  | .sb rt rs imm => Sys2Proof.Machine.execSb rt rs imm s
  | .sh rt rs imm => Sys2Proof.Machine.execSh rt rs imm s
  | .sw rt rs imm => Sys2Proof.Machine.execSw rt rs imm s
  | .and rd rs rt => Sys2Proof.Machine.execAnd rd rs rt s
  | .andi rt rs imm => Sys2Proof.Machine.execAndi rt rs imm s
  | .nor rd rs rt => Sys2Proof.Machine.execNor rd rs rt s
  | .or rd rs rt => Sys2Proof.Machine.execOr rd rs rt s
  | .ori rt rs imm => Sys2Proof.Machine.execOri rt rs imm s
  | .xor rd rs rt => Sys2Proof.Machine.execXor rd rs rt s
  | .xori rt rs imm => Sys2Proof.Machine.execXori rt rs imm s
  | .mfhi rd => Sys2Proof.Machine.execMfhi rd s
  | .mflo rd => Sys2Proof.Machine.execMflo rd s
  | .movn rd rs rt => Sys2Proof.Machine.execMovn rd rs rt s
  | .movz rd rs rt => Sys2Proof.Machine.execMovz rd rs rt s
  | .mthi rs => Sys2Proof.Machine.execMthi rs s
  | .mtlo rs => Sys2Proof.Machine.execMtlo rs s
  | .sll rd rt shamt => Sys2Proof.Machine.execSll rd rt shamt s
  | .sllv rd rt rs => Sys2Proof.Machine.execSllv rd rt rs s
  | .sra rd rt shamt => Sys2Proof.Machine.execSra rd rt shamt s
  | .srav rd rt rs => Sys2Proof.Machine.execSrav rd rt rs s
  | .srl rd rt shamt => Sys2Proof.Machine.execSrl rd rt shamt s
  | .srlv rd rt rs => Sys2Proof.Machine.execSrlv rd rt rs s
  | .brk code => Sys2Proof.Machine.execBreak code s
  | .syscall code => Sys2Proof.Machine.execSyscall code s
  | .teq rs rt code => Sys2Proof.Machine.execTeq rs rt code s
  | .teqi rs imm => Sys2Proof.Machine.execTeqi rs imm s
  | .tge rs rt code => Sys2Proof.Machine.execTge rs rt code s
  | .tgei rs imm => Sys2Proof.Machine.execTgei rs imm s
  | .tgeiu rs imm => Sys2Proof.Machine.execTgeiu rs imm s
  | .tgeu rs rt code => Sys2Proof.Machine.execTgeu rs rt code s
  | .tlt rs rt code => Sys2Proof.Machine.execTlt rs rt code s
  | .tlti rs imm => Sys2Proof.Machine.execTlti rs imm s
  | .tltiu rs imm => Sys2Proof.Machine.execTltiu rs imm s
  | .tltu rs rt code => Sys2Proof.Machine.execTltu rs rt code s
  | .tne rs rt code => Sys2Proof.Machine.execTne rs rt code s
  | .tnei rs imm => Sys2Proof.Machine.execTnei rs imm s
  | .nop => Sys2Proof.Machine.execNop s
  | .b imm => Sys2Proof.Machine.execB imm s
  | .bal imm => Sys2Proof.Machine.execBal imm s
  | .li rd imm32 => Sys2Proof.Machine.execLi rd imm32 s
  | .la rd imm32 => Sys2Proof.Machine.execLa rd imm32 s

end Sys2Proof.Machine
end

