-- ==== Sys2Proof/Machine/Step.lean ====
section
/-! DEFINITION. One step of the machine (00_scope.md R17), and how a word is placed where the next step fetches. -/

namespace Sys2Proof.Machine

/-- One step (00_scope.md R17): fetch, decode, perform; an exception of the fetch or of the decoder is taken as any
other (60_exceptions.md R261, R262). Once the trap record is set no further step is taken (10_state.md R31). -/
def step (s : State) : Host.Outcome State Fault Refusal :=
  match s.trap with
  | some record => .fault (.runEnded record)
  | none =>
    match fetchDecode s with
    | .error c => raise c s
    | .ok i => exec i s

/-- `s` with the instruction of a table word placed where the next step fetches. -/
def State.withFetchWord (s : State) (nbits w : Nat) : State := s.placeWord (tableWord nbits w)

end Sys2Proof.Machine
end

