-- ==== Sys2Proof/Machine/Launch.lean ====
section
/-! DEFINITION. The launch premises (70_reset_and_hazards.md R291): what the host supplies before a run. -/

namespace Sys2Proof.Machine

/-- What the host supplies (70_reset_and_hazards.md R291). A register the host does not promise is unspecified (R280):
a statement about it holds for every value here. -/
structure Launch where
  /-- `ENDIAN`, `MEM_VALID` and the other parameters of 00_scope.md R7 -/
  params : Params
  /-- the memory image (R291); of several pairs for one address the last wins, DESIGN CHOICE, unsafe (log 16) -/
  image : List Host.Cell
  /-- `RESET_PC` -/
  resetPc : Word
  /-- the values the general registers start with -/
  regs : Vector Word 32
  /-- the value Hi starts with -/
  hi : Word
  /-- the value Lo starts with -/
  lo : Word
deriving DecidableEq, Repr

/-- `MEM_VALID` where the platform gives none: the bytes of the image and the declared ranges, for all three kinds
(70_reset_and_hazards.md R291). -/
def defaultValidRegions (image : List Host.Cell) (declared : List (Nat × Nat)) : List Region :=
  image.map (fun c => { base := c.1, size := 1, fetch := true, load := true, store := true }) ++
    declared.map (fun d => { base := d.1, size := d.2, fetch := true, load := true, store := true })

/-- The image in canonical form; of several pairs for one address the last wins, DESIGN CHOICE, unsafe (log 16). -/
def loadImage : List Host.Cell → Memory → Memory
  | [], m => m
  | (a, b) :: cells, m => loadImage cells (m.writeByte a b)

/-- The state a run starts from (70_reset_and_hazards.md R280): x[0] = 0, no trap, the rest as supplied. -/
def State.launch (l : Launch) : State where
  regs := l.regs.set 0 0x00000000#32
  hi := l.hi
  lo := l.lo
  pc := l.resetPc
  mem := loadImage l.image []
  trap := none
  params := l.params
  draws := 0

end Sys2Proof.Machine
end

