-- ==== Sys2Proof/Machine/Platform.lean ====
section
/-! DEFINITION. The open parameter `TRAP_HANDLER` (60_exceptions.md R262): a function of the platform from the state and
the trap record to a new state. `step` has the spec's default, no handler. -/

namespace Sys2Proof.Machine

/-- What a platform supplies for `TRAP_HANDLER` (60_exceptions.md R262). -/
abbrev TrapHandler := State → TrapRecord → State

/-- One step of a machine whose platform may supply a handler; without one the run has ended (60_exceptions.md R262). -/
def stepWith (handler : Option TrapHandler) (s : State) : Result :=
  match s.trap, handler with
  | some record, some h => .next (h s record)
  | _, _ => step s

/-- The example handler of 60_exceptions.md R262: a service chosen by x[3], then on at epc + 4. -/
def resumeAfter (service : Word → State → State) : TrapHandler := fun s record =>
  (service (s.reg 3#5) s).resumeAt (nextPc record.epc)

end Sys2Proof.Machine
end

