-- ==== Sys2Proof/Safety.lean ====
section
/-! DEFINITION. What claims speak of: the machine running or stopped, the invariant of its states, and the frame of a
step, read through the operations that read one register and one byte. -/

namespace Sys2Proof.Machine

/-- The machine has taken no exception (10_state.md R31). -/
def State.running (s : State) : Prop := s.trap = none

/-- What every state of a run satisfies: memory in its canonical form, and slot 0 of the registers, which nothing
reads, untouched. -/
def State.Inv (s : State) : Prop := s.mem.wf ∧ s.regs[0] = 0#32

/-- Every byte of memory reads as before. -/
def sameMemory (s t : State) : Prop := ∀ a : Nat, t.mem.readByte a = s.mem.readByte a

/-- Every byte of memory outside the `n` bytes from `base` on reads as before. -/
def sameMemoryBut (s t : State) (base n : Nat) : Prop :=
  ∀ a : Nat, (a < base ∨ base + n ≤ a) → t.mem.readByte a = s.mem.readByte a

/-- Every general register reads as before. -/
def sameRegs (s t : State) : Prop := ∀ r : RegNum, t.reg r = s.reg r

/-- Register `d` reads `v`, unless it is register 0, which reads 0; every other register reads as before
(10_state.md R21). -/
def onlyReg (s t : State) (d : RegNum) (v : Word) : Prop :=
  ∀ r : RegNum, t.reg r = if r = 0#5 then 0#32 else if r = d then v else s.reg r

/-- Hi and Lo are as before. -/
def sameHiLo (s t : State) : Prop := t.hi = s.hi ∧ t.lo = s.lo

/-- The trap record, the parameters and the counter of free values are as before. -/
def sameRest (s t : State) : Prop := t.trap = s.trap ∧ t.params = s.params ∧ t.draws = s.draws

/-- The meaning completes with `x[d] <- v` as its one effect and `pc` as the next pc; everything else is unchanged. -/
def completesWithReg (o : Result) (s : State) (d : RegNum) (v pc : Word) : Prop :=
  ∃ t, o = .next t ∧ onlyReg s t d v ∧ t.pc = pc ∧ sameHiLo s t ∧ sameMemory s t ∧ sameRest s t

/-- The meaning completes with a change of pc as its one effect. -/
def completesWithPc (o : Result) (s : State) (pc : Word) : Prop :=
  ∃ t, o = .next t ∧ t.pc = pc ∧ sameRegs s t ∧ sameHiLo s t ∧ sameMemory s t ∧ sameRest s t

/-- The meaning completes with new values of Hi and Lo as its one effect, and pc + 4. -/
def completesWithHiLo (o : Result) (s : State) (hi lo : Word) : Prop :=
  ∃ t, o = .next t ∧ t.hi = hi ∧ t.lo = lo ∧ t.pc = s.pc + 4#32 ∧ sameRegs s t ∧ sameMemory s t ∧ sameRest s t

/-- The exception is taken: the trap record holds the cause and the pc, and nothing else changes
(60_exceptions.md R259, R262, R263). -/
def takesException (o : Result) (s : State) (c : Cause) : Prop :=
  o = .next { s with trap := some { cause := c, epc := s.pc } }

/-! ### The families that claims speak of -/

/-- The loads that read data memory (20_memory.md R52): lui is not one. -/
def isMemoryLoad : Instr → Bool
  | .lb _ _ _ | .lbu _ _ _ | .lh _ _ _ | .lhu _ _ _ | .lw _ _ _ => true
  | _ => false

/-- The stores (20_memory.md R52). -/
def isStore : Instr → Bool
  | .sb _ _ _ | .sh _ _ _ | .sw _ _ _ => true
  | _ => false

/-- The instructions that write Hi or Lo (10_state.md R20, R24). -/
def writesHiOrLo : Instr → Bool
  | .mult _ _ | .multu _ _ | .div _ _ | .divu _ _ | .madd _ _ | .maddu _ _ | .msub _ _ | .msubu _ _ => true
  | .mthi _ | .mtlo _ => true
  | _ => false

/-- The jumps that copy a register to pc (10_state.md R27). -/
def isRegisterJump : Instr → Bool
  | .jr _ | .jalr _ _ => true
  | _ => false

/-- The control transfers (41_branch_jump.md), the aliases b and bal among them. -/
def isTransfer : Instr → Bool
  | .beq _ _ _ | .bne _ _ _ | .bgez _ _ | .bgtz _ _ | .blez _ _ | .bltz _ _ | .bgezal _ _ | .bltzal _ _ => true
  | .b _ | .bal _ | .j _ | .jal _ | .jr _ | .jalr _ _ => true
  | _ => false

/-- Which instruction can raise what, besides the causes of the fetch and the decoder (60_exceptions.md R258). -/
def mayRaise : Instr → Cause → Prop
  | .add _ _ _, c | .addi _ _ _, c | .sub _ _ _, c => c = .integerOverflow
  | .lb _ _ _, c | .lbu _ _ _, c | .lh _ _ _, c | .lhu _ _ _, c | .lw _ _ _, c => ∃ a, c = .addressError .load a
  | .sb _ _ _, c | .sh _ _ _, c | .sw _ _ _, c => ∃ a, c = .addressError .store a
  | .brk code, c => c = .breakpoint code
  | .syscall code, c => c = .syscall code
  | .teq _ _ code, c | .tge _ _ code, c | .tgeu _ _ code, c => c = .trap (some code)
  | .tlt _ _ code, c | .tltu _ _ code, c | .tne _ _ code, c => c = .trap (some code)
  | .teqi _ _, c | .tgei _ _, c | .tgeiu _ _, c | .tlti _ _, c | .tltiu _ _, c | .tnei _ _, c => c = .trap none
  | _, _ => False

end Sys2Proof.Machine
end

