-- ==== Sys2Proof/Certificates/Slice0/Obligations.lean ====
section
/-! DEFINITION. The statements for the provers, one `def Obligations.<Name> : Prop` each. Where a clause rests on a
decision of the spec (D<n> of 92_eei_decisions.md) or on a choice of the model (log <n>), its docstring says so. -/

open Sys2Proof Sys2Proof.Machine

/-! ### Words -/

/-- Every machine instruction has one word, and the decoder gives it back (30_encoding.md sections 1 and 3). That a
word of an alias row is named by the alias, so that the special case is not well formed, is the model's choice (log
12). -/
def Obligations.DecodeInvertsEncode : Prop :=
  ∀ i : Instr, i.wellFormed = true → ∃ w, encode i = [w] ∧ decode w = .ok i

/-- Every word that decodes is the one word of a well-formed instruction: no bit of it is dropped (30_encoding.md
sections 2 and 3; decision D14 of the spec). That the name is the alias where there is one is the model's choice (log
12). -/
def Obligations.EncodeInvertsDecode : Prop :=
  ∀ (w : Word) (i : Instr), decode w = .ok i → i.wellFormed = true ∧ encode i = [w]

/-- A special case that has an alias row decodes to the alias, and means the same under either name
(30_encoding.md R101, 49_pseudo.md R243; the alias first is the model's choice, log 12). -/
def Obligations.SpellingsNameTheSameInstruction : Prop :=
  ∀ i : Instr, i.isPseudo = false →
    (∃ w, encode i = [w] ∧ decode w = .ok i.canonical) ∧ ∀ s : State, exec i.canonical s = exec i s

/-- The decoder is the opcode table: a word decodes exactly when a row of the 75 machine instructions selects it (and
rt = rd for clo, clz), and what it decodes to is named as a row that selects it (30_encoding.md R93, R98). -/
def Obligations.DecoderFollowsTheOpcodeTable : Prop :=
  (∀ w : Word, (∃ i, decode w = .ok i) ↔ ∃ r ∈ opcodeRows, r.selects w = true ∧ r.condition w = true) ∧
  ∀ (w : Word) (i : Instr), decode w = .ok i →
    ∃ r ∈ opcodeRows ++ aliasRows, r.selects w = true ∧ r.mnemonic = i.mnemonic

/-- The rows of the 75 distinct machine instructions are pairwise disjoint (30_encoding.md R93). -/
def Obligations.OpcodeRowsAreDisjoint : Prop :=
  opcodeRows.length = 75 ∧
  opcodeRows.Pairwise fun p q => ∀ w : Word, ¬ (p.selects w = true ∧ q.selects w = true)

/-- Words of 95_test_vectors.md decode to the instructions they stand for. That the zero word decodes to nop and not
to sll $0, $0, 0 is the model's choice of name (log 12). -/
def Obligations.SpecWordsDecode : Prop :=
  decode 0x00430820#32 = .ok (.add 1#5 2#5 3#5) ∧
  decode 0x20410064#32 = .ok (.addi 1#5 2#5 100#16) ∧
  decode 0x08002710#32 = .ok (.j 10000#26) ∧
  decode 0x8C410064#32 = .ok (.lw 1#5 2#5 100#16) ∧
  decode 0x14220064#32 = .ok (.bne 1#5 2#5 100#16) ∧
  decode 0x70410821#32 = .ok (.clo 1#5 2#5) ∧
  decode 0x0048D14D#32 = .ok (.brk 74565#20) ∧
  decode 0x00000000#32 = .ok .nop

/-- The offset and target fields an assembler stores for a label lead back to the label, where the label is a whole
number of instructions away and in reach, or a multiple of 4 in the region of pc + 4 (30_encoding.md sections 2 and 5;
decisions D2, D10 of the spec). That the difference stored for a branch is taken modulo 2^32, so that a label across
the top of the address space has its field, is the model's, DEDUCED (log 15). -/
def Obligations.LabelFieldsReachTheirLabel : Prop :=
  (∀ (pc label : Word) (k : Int), -32768 ≤ k → k ≤ 32767 → label = pc + 4#32 + BitVec.ofInt 32 (4 * k) →
    branchTarget pc (branchOffsetTo pc label) = label) ∧
  (∀ pc label : Word, label.toNat % 4 = 0 → label.toNat / 268435456 = (pc + 4#32).toNat / 268435456 →
    jumpTarget pc (jumpTargetTo label) = label)

/-! ### The step -/

/-- A step runs the decoded instruction: a running machine whose pc is aligned and valid for fetch, and whose word
there decodes to `i`, steps as `exec i` does, nothing added around it (00_scope.md R17). -/
def Obligations.StepRunsTheDecodedInstruction : Prop :=
  ∀ (s : State) (i : Instr), s.trap = none → s.pc.toNat % 4 = 0 → memValid s.params s.pc.toNat 4 .fetch = true →
    decode (s.valueAt .word s.pc) = .ok i → step s = exec i s

/-- A pc that is misaligned or not valid for fetch raises AddressError(fetch, pc) at the fetch
(20_memory.md R57; the record is decision D4 of the spec, the fetch as the place decision D13). -/
def Obligations.BadFetchRaisesAddressError : Prop :=
  ∀ s : State, s.trap = none → (s.pc.toNat % 4 ≠ 0 ∨ memValid s.params s.pc.toNat 4 .fetch = false) →
    takesException (step s) s (.addressError .fetch s.pc)

/-- A fetched word that no row of the opcode table selects raises ReservedInstruction(word) and does nothing else
(decision D14 of the spec). -/
def Obligations.ReservedWordRaises : Prop :=
  ∀ s : State, s.trap = none → s.pc.toNat % 4 = 0 → memValid s.params s.pc.toNat 4 .fetch = true →
    (∀ r ∈ opcodeRows, ¬ (r.selects (s.valueAt .word s.pc) = true ∧ r.condition (s.valueAt .word s.pc) = true)) →
    takesException (step s) s (.reservedInstruction (s.valueAt .word s.pc))

/-- Once the trap record is set the machine takes no further step, and the stop gives the record; a platform handler, if
there is one, decides what follows, and changes nothing before that (the open parameter TRAP_HANDLER, decision D4 of the
spec; the fault and the form of the handler are log 10). -/
def Obligations.EndedRunStopsUnlessAHandlerGoesOn : Prop :=
  (∀ (s : State) (record : TrapRecord), s.trap = some record → step s = .fault (.runEnded record)) ∧
  (∀ (h : TrapHandler) (s : State) (record : TrapRecord), s.trap = some record →
    stepWith (some h) s = .next (h s record)) ∧
  (∀ (h : Option TrapHandler) (s : State), s.trap = none → stepWith h s = step s) ∧
  ∀ s : State, stepWith none s = step s

/-- A word placed for the next step is the word that step fetches, decodes and runs (00_scope.md R17; how a program
comes to run is log 3). -/
def Obligations.PlacedWordIsTheNextInstruction : Prop :=
  ∀ (s : State) (w : Nat),
    let t := s.withFetchWord 32 w
    t.trap = none ∧ sameRegs s t ∧ sameHiLo s t ∧ (s.pc.toNat % 4 = 0 → t.pc = s.pc) ∧
    t.valueAt .word t.pc = BitVec.ofNat 32 w ∧
    step t = match decode (BitVec.ofNat 32 w) with
      | .ok i => exec i t
      | .error _ => raise (.reservedInstruction (BitVec.ofNat 32 w)) t

/-! ### The whole machine -/

/-- Every instruction completes or takes its exception in every state: no meaning ends in a fault or a refusal, and a
running machine always has a next state (00_scope.md R17, 60_exceptions.md R262). -/
def Obligations.RunningMachineAlwaysSteps : Prop :=
  (∀ (i : Instr) (s : State), ∃ t, exec i s = .next t) ∧ ∀ s : State, s.trap = none → ∃ t, step s = .next t

/-- Exceptions are precise: a step that sets the trap record changes nothing else, and the record holds the pc of the
raising instruction (60_exceptions.md R259, R263; decisions D4, D32 of the spec). -/
def Obligations.ExceptionsArePrecise : Prop :=
  ∀ s t : State, step s = .next t → t.trap ≠ none → ∃ c, t = { s with trap := some { cause := c, epc := s.pc } }

/-- An instruction raises only what the table of 60_exceptions.md R258 lists for it (the spec's own inference). -/
def Obligations.OnlyListedExceptionsAreRaised : Prop :=
  ∀ (i : Instr) (s t : State) (record : TrapRecord), s.trap = none → exec i s = .next t → t.trap = some record →
    mayRaise i record.cause

/-- Memory's canonical form and the untouched slot 0 are kept by every step from every state that has them. -/
def Obligations.EveryStepKeepsTheStateInvariant : Prop :=
  ∀ s t : State, s.Inv → step s = .next t → t.Inv

/-- The state after reset meets the invariant, and so does every launch whose image lies in the space of 2^32 bytes
(20_memory.md R50, 70_reset_and_hazards.md R291). -/
def Obligations.ResetAndLaunchMeetTheStateInvariant : Prop :=
  State.reset.Inv ∧ ∀ l : Launch, (∀ c ∈ l.image, c.1 < 4294967296) → (State.launch l).Inv

/-- A run starts with x[0] = 0, the registers, Hi and Lo that were supplied, pc = RESET_PC and no trap, and a byte of
the image reads as it is listed (70_reset_and_hazards.md sections 1 and 4; decision D16 of the spec). That the last
listing of an address wins, where the image lists it more than once, is the model's choice (log 16). -/
def Obligations.LaunchStateIsAsSupplied : Prop :=
  ∀ l : Launch,
    let s := State.launch l
    s.reg 0#5 = 0#32 ∧ (∀ r : RegNum, r ≠ 0#5 → s.reg r = l.regs[r.toNat]) ∧ s.hi = l.hi ∧ s.lo = l.lo ∧
    s.pc = l.resetPc ∧ s.trap = none ∧ s.params = l.params ∧
    ∀ (before after : List Host.Cell) (a : Nat) (b : Byte), l.image = before ++ (a, b) :: after →
      (∀ c ∈ after, c.1 ≠ a) → s.mem.readByte a = b

/-- No step changes a parameter. For the byte order this is the spec's (decision D1 of the spec, 20_memory.md section
2). For the other parameters it is the model's: that UNSIGNED_IMM_EXT is fixed for a run is read from the spec by
inference (log 9), and so is that DIV_OVERFLOW is one pair of values (log 8) and that the valid ranges and MUL_HILO are
fixed (log 2, log 7). -/
def Obligations.ParametersHoldForAWholeRun : Prop :=
  ∀ s t : State, step s = .next t → t.params = s.params

/-- Load/store architecture: only sb, sh, sw write data memory, and only lb, lbu, lh, lhu, lw read it: what any other
instruction does to the rest of the state does not depend on memory (20_memory.md R52). -/
def Obligations.OnlyLoadsReadAndOnlyStoresWriteMemory : Prop :=
  (∀ (i : Instr) (s t : State), isStore i = false → exec i s = .next t → t.mem = s.mem) ∧
  ∀ (i : Instr) (s t : State) (m : Memory), isMemoryLoad i = false → exec i s = .next t →
    ∃ m', exec i { s with mem := m } = .next { t with mem := m' }

/-- Only mult, multu, div, divu, madd, maddu, msub, msubu, mthi, mtlo write Hi or Lo; in particular mul does not, under
the spec's value of MUL_HILO (10_state.md section 3; decision D21 of the spec). -/
def Obligations.OnlyListedInstructionsWriteHiAndLo : Prop :=
  ∀ (i : Instr) (s t : State), s.params.mulHiLo = .unchanged → writesHiOrLo i = false → exec i s = .next t →
    sameHiLo s t

/-- A machine instruction that is no control transfer either goes on at pc + 4 or raises with pc unchanged
(10_state.md section 4; the wrap is decision D2 of the spec). -/
def Obligations.OtherInstructionsGoOnAtTheNextWord : Prop :=
  ∀ (i : Instr) (s t : State), isTransfer i = false → i.isPseudo = false → s.trap = none → exec i s = .next t →
    (t.trap = none ∧ t.pc = s.pc + 4#32) ∨ (t.trap ≠ none ∧ t.pc = s.pc)

/-- Only jr and jalr can make pc misaligned: every other instruction keeps it a multiple of 4 (10_state.md section 4;
decision D13 of the spec). -/
def Obligations.OnlyRegisterJumpsMisalignPc : Prop :=
  ∀ (i : Instr) (s t : State), isRegisterJump i = false → s.pc.toNat % 4 = 0 → exec i s = .next t →
    t.pc.toNat % 4 = 0

/-! ### Memory -/

/-- A read checks alignment and validity first, and gives the bytes in the machine's order: little, the lowest address
least significant; big, most significant (20_memory.md R54; big-endian is the spec's general knowledge G13). -/
def Obligations.MemReadAssemblesBytesByEndian : Prop :=
  ∀ (s : State) (access : Access) (w : Width) (a : Word),
    let B := fun k => (s.mem.readByte (a.toNat + k)).toNat
    memRead s access w a =
      if a.toNat % w.bytes ≠ 0 ∨ memValid s.params a.toNat w.bytes access = false then .error (.addressError access a)
      else .ok (BitVec.ofNat 32 (match w, s.params.endian with
        | .byte, _ => B 0
        | .half, .little => B 0 + 256 * B 1
        | .half, .big => 256 * B 0 + B 1
        | .word, .little => B 0 + 256 * B 1 + 65536 * B 2 + 16777216 * B 3
        | .word, .big => 16777216 * B 0 + 65536 * B 1 + 256 * B 2 + B 3))

/-- A write makes the same checks, replaces exactly its bytes in the machine's order, and is read back
(20_memory.md R55; the read-back is the spec's own inference). -/
def Obligations.MemWriteReplacesExactlyItsBytes : Prop :=
  ∀ (s : State) (w : Width) (a v : Word),
    if a.toNat % w.bytes ≠ 0 ∨ memValid s.params a.toNat w.bytes .store = false then
      memWrite s w a v = .error (.addressError .store a)
    else ∃ t, memWrite s w a v = .ok t ∧
      (∀ k, k < w.bytes → t.mem.readByte (a.toNat + k) =
        v.extractLsb' (8 * (match s.params.endian with | .little => k | .big => w.bytes - 1 - k)) 8) ∧
      sameMemoryBut s t a.toNat w.bytes ∧ t = { s with mem := t.mem } ∧
      (memValid s.params a.toNat w.bytes .load = true →
        memRead t .load w a = .ok (BitVec.ofNat 32 (v.toNat % 256 ^ w.bytes)))

/-- Figura 1 of the source, little-endian, and the spec's own big-endian reading of it (20_memory.md section 8). -/
def Obligations.FiguraOneReads : Prop :=
  let image : List Host.Cell := (List.range 20).map fun k => (k, BitVec.ofNat 8 (16 + k))
  let s := fun e => { State.reset with mem := loadImage image [], params := { Params.default with endian := e } }
  memRead (s .little) .load .word 0x0000#32 = .ok 0x13121110#32 ∧
  memRead (s .little) .load .word 0x0004#32 = .ok 0x17161514#32 ∧
  memRead (s .little) .load .half 0x000E#32 = .ok 0x1F1E#32 ∧
  memRead (s .little) .load .byte 0x0009#32 = .ok 0x19#32 ∧
  memRead (s .big) .load .word 0x0000#32 = .ok 0x10111213#32 ∧
  memRead (s .big) .load .word 0x0004#32 = .ok 0x14151617#32 ∧
  memRead (s .big) .load .half 0x000E#32 = .ok 0x1E1F#32 ∧
  memRead (s .big) .load .byte 0x0009#32 = .ok 0x19#32

/-! ### Arithmetic -/

/-- add, addi, sub: the exact signed result in the destination where it fits 32 bits, else IntegerOverflow with nothing
written (40_arithmetic.md section 2; detecting overflow so is decision D5 of the spec). -/
def Obligations.SignedAddAndSubtractDetectOverflow : Prop :=
  ∀ (rd rs rt : RegNum) (imm : Imm16) (s : State),
    let fits := fun n : Int => -2147483648 ≤ n ∧ n ≤ 2147483647
    let outcome := fun (i : Instr) (d : RegNum) (n : Int) =>
      if fits n then ∃ v : Word, v.toInt = n ∧ completesWithReg (exec i s) s d v (s.pc + 4#32)
      else takesException (exec i s) s .integerOverflow
    outcome (.add rd rs rt) rd ((s.reg rs).toInt + (s.reg rt).toInt) ∧
    outcome (.addi rt rs imm) rt ((s.reg rs).toInt + imm.toInt) ∧
    outcome (.sub rd rs rt) rd ((s.reg rs).toInt - (s.reg rt).toInt)

/-- addu, subu: the sum and the difference modulo 2^32, no exception (40_arithmetic.md R118, R135). The op and funct
values are decision D15 of the spec. -/
def Obligations.UnsignedAddAndSubtractWrap : Prop :=
  ∀ (rd rs rt : RegNum) (s : State),
    encode (.addu rd rs rt) = [formatR 0#6 rs rt rd 0#5 33#6] ∧
    encode (.subu rd rs rt) = [formatR 0#6 rs rt rd 0#5 35#6] ∧
    (∃ v : Word, v.toNat = ((s.reg rs).toNat + (s.reg rt).toNat) % 4294967296 ∧
      completesWithReg (exec (.addu rd rs rt) s) s rd v (s.pc + 4#32)) ∧
    (∃ v : Word, (v.toNat : Int) = (((s.reg rs).toNat : Int) - (s.reg rt).toNat) % 4294967296 ∧
      completesWithReg (exec (.subu rd rs rt) s) s rd v (s.pc + 4#32))

/-- addiu and sltiu with the immediate extended as UNSIGNED_IMM_EXT says: with zeros, the source's value, or with its
sign (40_arithmetic.md section 2; decision D9 of the spec, log 9). -/
def Obligations.UnsignedImmediatesFollowTheParameter : Prop :=
  ∀ (rt rs : RegNum) (imm : Imm16) (s : State),
    let e : Nat := match s.params.unsignedImmExt with
      | .zero => imm.toNat
      | .sign => if imm.toNat < 32768 then imm.toNat else imm.toNat + 4294901760
    (∃ v : Word, v.toNat = ((s.reg rs).toNat + e) % 4294967296 ∧
      completesWithReg (exec (.addiu rt rs imm) s) s rt v (s.pc + 4#32)) ∧
    completesWithReg (exec (.sltiu rt rs imm) s) s rt (if (s.reg rs).toNat < e then 1#32 else 0#32) (s.pc + 4#32)

/-- clo, clz: the count n, 0 to 32, of equal leading bits: the n bits from bit 31 down are ones (zeros), and the next
bit, if any, is not (40_arithmetic.md section 1; leading counts are decision D22 of the spec). -/
def Obligations.LeadingBitCounts : Prop :=
  ∀ (rd rs : RegNum) (s : State),
    let leading := fun (bit : Bool) (n : Nat) =>
      n ≤ 32 ∧ (∀ k, 32 - n ≤ k → k < 32 → (s.reg rs).getLsbD k = bit) ∧
      (n < 32 → (s.reg rs).getLsbD (31 - n) = !bit)
    (∃ n, leading true n ∧ completesWithReg (exec (.clo rd rs) s) s rd (BitVec.ofNat 32 n) (s.pc + 4#32)) ∧
    (∃ n, leading false n ∧ completesWithReg (exec (.clz rd rs) s) s rd (BitVec.ofNat 32 n) (s.pc + 4#32))

/-- divu by a divisor other than 0: quotient in Lo, remainder in Hi (40_arithmetic.md R113, first case). -/
def Obligations.UnsignedDivisionQuotientAndRemainder : Prop :=
  ∀ (rs rt : RegNum) (s : State), s.reg rt ≠ 0#32 →
    ∃ hi lo : Word, completesWithHiLo (exec (.divu rs rt) s) s hi lo ∧
      (s.reg rs).toNat = lo.toNat * (s.reg rt).toNat + hi.toNat ∧ hi.toNat < (s.reg rt).toNat

/-- div by a divisor other than 0: the quotient toward zero in Lo and the remainder, 0 or with the dividend's sign, in
Hi; -2^31 by -1 gives DIV_OVERFLOW (40_arithmetic.md section 1; decisions D7, D8 of the spec, log 8). -/
def Obligations.SignedDivisionTruncatesTowardZero : Prop :=
  ∀ (rs rt : RegNum) (s : State), s.reg rt ≠ 0#32 →
    if (s.reg rs).toInt = -2147483648 ∧ (s.reg rt).toInt = -1 then
      completesWithHiLo (exec (.div rs rt) s) s s.params.divOverflow.hi s.params.divOverflow.lo
    else ∃ hi lo : Word, completesWithHiLo (exec (.div rs rt) s) s hi lo ∧
      (s.reg rs).toInt = lo.toInt * (s.reg rt).toInt + hi.toInt ∧
      hi.toInt.natAbs < (s.reg rt).toInt.natAbs ∧ (hi.toInt = 0 ∨ (0 < hi.toInt ↔ 0 < (s.reg rs).toInt))

/-- A division by 0 raises nothing and completes with any values in Hi and Lo, nothing said of them
(40_arithmetic.md section 1; decision D6 of the spec, the free values are log 6). -/
def Obligations.DivisionByZeroCompletes : Prop :=
  ∀ (rs rt : RegNum) (s : State) (i : Instr), i = .div rs rt ∨ i = .divu rs rt → s.reg rt = 0#32 →
    ∃ t, exec i s = .next t ∧ t.pc = s.pc + 4#32 ∧ sameRegs s t ∧ sameMemory s t ∧ t.trap = s.trap ∧
      t.params = s.params

/-- mult, multu: the exact 64-bit product, signed or unsigned, Hi the high half (40_arithmetic.md R128, R129). The op
and funct values are decision D15 of the spec. -/
def Obligations.MultiplyLeavesTheProductInHiLo : Prop :=
  ∀ (rs rt : RegNum) (s : State),
    encode (.mult rs rt) = [formatR 0#6 rs rt 0#5 0#5 24#6] ∧
    encode (.multu rs rt) = [formatR 0#6 rs rt 0#5 0#5 25#6] ∧
    (∃ hi lo : Word, completesWithHiLo (exec (.mult rs rt) s) s hi lo ∧
      (hi ++ lo : Dword).toInt = (s.reg rs).toInt * (s.reg rt).toInt) ∧
    (∃ hi lo : Word, completesWithHiLo (exec (.multu rs rt) s) s hi lo ∧
      (hi ++ lo : Dword).toNat = (s.reg rs).toNat * (s.reg rt).toNat)

/-- madd, maddu, msub, msubu: the product added to or subtracted from Hi:Lo modulo 2^64
(40_arithmetic.md section 2; the wrap is decision D34 of the spec). -/
def Obligations.MultiplyAccumulateWrapsModulo64Bits : Prop :=
  ∀ (rs rt : RegNum) (s : State),
    let acc : Int := (s.hi.toNat * 4294967296 + s.lo.toNat : Nat)
    let signed := (s.reg rs).toInt * (s.reg rt).toInt
    let unsigned : Int := ((s.reg rs).toNat * (s.reg rt).toNat : Nat)
    let leaves := fun (i : Instr) (n : Int) => ∃ hi lo : Word, completesWithHiLo (exec i s) s hi lo ∧
      ((hi.toNat * 4294967296 + lo.toNat : Nat) : Int) = n % 18446744073709551616
    leaves (.madd rs rt) (acc + signed) ∧ leaves (.maddu rs rt) (acc + unsigned) ∧
    leaves (.msub rs rt) (acc - signed) ∧ leaves (.msubu rs rt) (acc - unsigned)

/-- mul: bits 31..0 of the signed product in rd; Hi and Lo unchanged, or any values where MUL_HILO says so
(40_arithmetic.md section 2; decision D21 of the spec, log 7). -/
def Obligations.MulWritesTheLowWord : Prop :=
  ∀ (rd rs rt : RegNum) (s : State), ∃ v : Word,
    (v.toNat : Int) = ((s.reg rs).toInt * (s.reg rt).toInt) % 4294967296 ∧
    match s.params.mulHiLo with
    | .unchanged => completesWithReg (exec (.mul rd rs rt) s) s rd v (s.pc + 4#32)
    | .any => ∃ t, exec (.mul rd rs rt) s = .next t ∧ onlyReg s t rd v ∧ t.pc = s.pc + 4#32 ∧ sameMemory s t ∧
        t.trap = s.trap ∧ t.params = s.params

/-- slt, slti, sltu: 1 where the first operand is less, signed or unsigned, else 0 (40_arithmetic.md R130, R131,
R133). The op and funct values are decision D15 of the spec. -/
def Obligations.SetOnLessThan : Prop :=
  ∀ (rd rs rt : RegNum) (imm : Imm16) (s : State),
    encode (.slt rd rs rt) = [formatR 0#6 rs rt rd 0#5 42#6] ∧
    encode (.sltu rd rs rt) = [formatR 0#6 rs rt rd 0#5 43#6] ∧
    encode (.slti rt rs imm) = [formatI 10#6 rs rt imm] ∧
    completesWithReg (exec (.slt rd rs rt) s) s rd
      (if (s.reg rs).toInt < (s.reg rt).toInt then 1#32 else 0#32) (s.pc + 4#32) ∧
    completesWithReg (exec (.sltu rd rs rt) s) s rd
      (if (s.reg rs).toNat < (s.reg rt).toNat then 1#32 else 0#32) (s.pc + 4#32) ∧
    completesWithReg (exec (.slti rt rs imm) s) s rt
      (if (s.reg rs).toInt < imm.toInt then 1#32 else 0#32) (s.pc + 4#32)

/-! ### Branches and jumps -/

/-- beq, bne: to the branch target, pc + 4 + 4 * imm modulo 2^32, or to pc + 4 (41_branch_jump.md section 2; the base
of the offset is decision D10, the wrap D2, the op values D15 of the spec). -/
def Obligations.EqualityBranches : Prop :=
  ∀ (rs rt : RegNum) (imm : Imm16) (s : State), ∃ target : Word,
    (target.toNat : Int) = (s.pc.toNat + 4 + 4 * imm.toInt) % 4294967296 ∧
    encode (.beq rs rt imm) = [formatI 4#6 rs rt imm] ∧ encode (.bne rs rt imm) = [formatI 5#6 rs rt imm] ∧
    completesWithPc (exec (.beq rs rt imm) s) s (if s.reg rs = s.reg rt then target else s.pc + 4#32) ∧
    completesWithPc (exec (.bne rs rt imm) s) s (if s.reg rs ≠ s.reg rt then target else s.pc + 4#32)

/-- bgez, bgtz, blez, bltz: the register compared with 0 as a signed number (41_branch_jump.md section 2; the base of
the offset is decision D10, the wrap D2, the op and rt values D15 of the spec). -/
def Obligations.CompareWithZeroBranches : Prop :=
  ∀ (rs : RegNum) (imm : Imm16) (s : State), ∃ target : Word,
    (target.toNat : Int) = (s.pc.toNat + 4 + 4 * imm.toInt) % 4294967296 ∧
    encode (.bgez rs imm) = [formatI 1#6 rs 1#5 imm] ∧ encode (.bgtz rs imm) = [formatI 7#6 rs 0#5 imm] ∧
    encode (.blez rs imm) = [formatI 6#6 rs 0#5 imm] ∧ encode (.bltz rs imm) = [formatI 1#6 rs 0#5 imm] ∧
    completesWithPc (exec (.bgez rs imm) s) s (if 0 ≤ (s.reg rs).toInt then target else s.pc + 4#32) ∧
    completesWithPc (exec (.bgtz rs imm) s) s (if 0 < (s.reg rs).toInt then target else s.pc + 4#32) ∧
    completesWithPc (exec (.blez rs imm) s) s (if (s.reg rs).toInt ≤ 0 then target else s.pc + 4#32) ∧
    completesWithPc (exec (.bltz rs imm) s) s (if (s.reg rs).toInt < 0 then target else s.pc + 4#32)

/-- bgezal, bltzal: $31 gets pc + 4 whether the branch is taken or not, and the register tested is read before that
(41_branch_jump.md section 2; reading first is decision D12 of the spec). -/
def Obligations.LinkingBranchesWriteTheLink : Prop :=
  ∀ (rs : RegNum) (imm : Imm16) (s : State), ∃ target : Word,
    (target.toNat : Int) = (s.pc.toNat + 4 + 4 * imm.toInt) % 4294967296 ∧
    completesWithReg (exec (.bgezal rs imm) s) s 31#5 (s.pc + 4#32)
      (if 0 ≤ (s.reg rs).toInt then target else s.pc + 4#32) ∧
    completesWithReg (exec (.bltzal rs imm) s) s 31#5 (s.pc + 4#32)
      (if (s.reg rs).toInt < 0 then target else s.pc + 4#32)

/-- The spellings b, bal, nop: always to the branch target, with the link for bal; pc + 4 alone for nop
(41_branch_jump.md section 2, 42_control.md; nop's word is decision D15, bal's link D30 of the spec). -/
def Obligations.UnconditionalBranchesAndNop : Prop :=
  ∀ (imm : Imm16) (s : State), ∃ target : Word,
    (target.toNat : Int) = (s.pc.toNat + 4 + 4 * imm.toInt) % 4294967296 ∧
    completesWithPc (exec (.b imm) s) s target ∧
    completesWithReg (exec (.bal imm) s) s 31#5 (s.pc + 4#32) target ∧
    completesWithPc (exec .nop s) s (s.pc + 4#32)

/-- j, jal: to the word index of the field, in the 256 MiB region of pc + 4; jal links $31
(41_branch_jump.md section 2; the region of pc + 4 is decision D10 of the spec). -/
def Obligations.JumpsStayInTheRegion : Prop :=
  ∀ (target : Target26) (s : State), ∃ pc : Word,
    pc.toNat = (s.pc + 4#32).toNat / 268435456 * 268435456 + 4 * target.toNat ∧
    completesWithPc (exec (.j target) s) s pc ∧
    completesWithReg (exec (.jal target) s) s 31#5 (s.pc + 4#32) pc

/-- jr, jalr: to the register's old value, aligned or not, with no exception here; jalr links rd
(41_branch_jump.md section 2; reading first is decision D12, the fault at the next fetch D13 of the spec). -/
def Obligations.RegisterJumpsCopyTheRegister : Prop :=
  ∀ (rd rs : RegNum) (s : State),
    completesWithPc (exec (.jr rs) s) s (s.reg rs) ∧
    completesWithReg (exec (.jalr rd rs) s) s rd (s.pc + 4#32) (s.reg rs)

/-! ### Loads and stores -/

/-- lb, lbu, lh, lhu, lw at an aligned, valid address: the bytes in the machine's order, extended, in rt; a byte access
needs no alignment (43_load.md section "Common rules"; the wrap of the address is decision D2 of the spec, the access
made for rt = 0 too D29). -/
def Obligations.LoadsReadTheirBytes : Prop :=
  ∀ (rt rs : RegNum) (imm : Imm16) (s : State),
    let ea := s.reg rs + imm.signExtend 32
    let B := fun k => s.mem.readByte (ea.toNat + k)
    let half : BitVec 16 := match s.params.endian with
      | .little => B 1 ++ B 0
      | .big => B 0 ++ B 1
    let word : Word := match s.params.endian with
      | .little => B 3 ++ B 2 ++ B 1 ++ B 0
      | .big => B 0 ++ B 1 ++ B 2 ++ B 3
    let loads := fun (i : Instr) (v : Word) => completesWithReg (exec i s) s rt v (s.pc + 4#32)
    (memValid s.params ea.toNat 1 .load = true →
      loads (.lb rt rs imm) ((B 0).signExtend 32) ∧ loads (.lbu rt rs imm) ((B 0).zeroExtend 32)) ∧
    (ea.toNat % 2 = 0 → memValid s.params ea.toNat 2 .load = true →
      loads (.lh rt rs imm) (half.signExtend 32) ∧ loads (.lhu rt rs imm) (half.zeroExtend 32)) ∧
    (ea.toNat % 4 = 0 → memValid s.params ea.toNat 4 .load = true → loads (.lw rt rs imm) word)

/-- A load at a misaligned or invalid address raises AddressError(load, ea), even with rt = 0, and writes nothing
(43_load.md section "Common rules"; decisions D4, D29 of the spec). -/
def Obligations.BadLoadsRaiseAddressError : Prop :=
  ∀ (rt rs : RegNum) (imm : Imm16) (s : State),
    let ea := s.reg rs + imm.signExtend 32
    let raises := fun i : Instr => takesException (exec i s) s (.addressError .load ea)
    (memValid s.params ea.toNat 1 .load = false → raises (.lb rt rs imm) ∧ raises (.lbu rt rs imm)) ∧
    (ea.toNat % 2 ≠ 0 ∨ memValid s.params ea.toNat 2 .load = false →
      raises (.lh rt rs imm) ∧ raises (.lhu rt rs imm)) ∧
    (ea.toNat % 4 ≠ 0 ∨ memValid s.params ea.toNat 4 .load = false → raises (.lw rt rs imm))

/-- sb, sh, sw at an aligned, valid address: the low 1, 2 or 4 bytes of x[rt] at ea in the machine's order, every byte
outside them as before, no register written (44_store.md; the wrap of the address is decision D2 of the spec). -/
def Obligations.StoresWriteExactlyTheirBytes : Prop :=
  ∀ (rt rs : RegNum) (imm : Imm16) (s : State),
    let ea := s.reg rs + imm.signExtend 32
    let stores := fun (i : Instr) (n : Nat) => ∃ t, exec i s = .next t ∧
      (∀ k, k < n → t.mem.readByte (ea.toNat + k) =
        (s.reg rt).extractLsb' (8 * (match s.params.endian with | .little => k | .big => n - 1 - k)) 8) ∧
      sameMemoryBut s t ea.toNat n ∧ t.pc = s.pc + 4#32 ∧ sameRegs s t ∧ sameHiLo s t ∧ sameRest s t
    (memValid s.params ea.toNat 1 .store = true → stores (.sb rt rs imm) 1) ∧
    (ea.toNat % 2 = 0 → memValid s.params ea.toNat 2 .store = true → stores (.sh rt rs imm) 2) ∧
    (ea.toNat % 4 = 0 → memValid s.params ea.toNat 4 .store = true → stores (.sw rt rs imm) 4)

/-- A store at a misaligned or invalid address raises AddressError(store, ea) and writes no byte
(44_store.md; decision D4 of the spec). -/
def Obligations.BadStoresRaiseAddressError : Prop :=
  ∀ (rt rs : RegNum) (imm : Imm16) (s : State),
    let ea := s.reg rs + imm.signExtend 32
    let raises := fun i : Instr => takesException (exec i s) s (.addressError .store ea)
    (memValid s.params ea.toNat 1 .store = false → raises (.sb rt rs imm)) ∧
    (ea.toNat % 2 ≠ 0 ∨ memValid s.params ea.toNat 2 .store = false → raises (.sh rt rs imm)) ∧
    (ea.toNat % 4 ≠ 0 ∨ memValid s.params ea.toNat 4 .store = false → raises (.sw rt rs imm))

/-- A word stored and then fetched is the instruction that runs: a store is seen by a later fetch of its address
(20_memory.md section 6; decision D17 of the spec). -/
def Obligations.StoredWordIsFetched : Prop :=
  ∀ (rt rs : RegNum) (imm : Imm16) (s t : State) (i : Instr),
    s.reg rs + imm.signExtend 32 = s.pc + 4#32 → s.pc.toNat % 4 = 0 → s.trap = none →
    memValid s.params (s.pc + 4#32).toNat 4 .store = true → memValid s.params (s.pc + 4#32).toNat 4 .fetch = true →
    exec (.sw rt rs imm) s = .next t → decode (s.reg rt) = .ok i → step t = exec i t

/-- lui: the immediate in the high half, zeros in the low half; with an ori of the same register after it, any 32-bit
constant (43_load.md R175). The op and funct values are decision D15 of the spec. -/
def Obligations.LoadUpperImmediate : Prop :=
  ∀ (rt : RegNum) (imm low : Imm16) (s : State), ∃ v : Word, v.toNat = imm.toNat * 65536 ∧
    encode (.lui rt imm) = [formatI 15#6 0#5 rt imm] ∧
    completesWithReg (exec (.lui rt imm) s) s rt v (s.pc + 4#32) ∧
    ∃ t u, exec (.lui rt imm) s = .next t ∧ exec (.ori rt rt low) t = .next u ∧ (rt ≠ 0#5 → u.reg rt = imm ++ low)

/-! ### Logic, copies, shifts -/

/-- and, or, xor, nor, bit by bit (45_logic.md R191, R193, R194, R196). The op and funct values are decision D15 of
the spec. -/
def Obligations.LogicOnRegisters : Prop :=
  ∀ (rd rs rt : RegNum) (s : State),
    let gives := fun (i : Instr) (f : Bool → Bool → Bool) => ∃ v : Word,
      (∀ k, k < 32 → v.getLsbD k = f ((s.reg rs).getLsbD k) ((s.reg rt).getLsbD k)) ∧
      completesWithReg (exec i s) s rd v (s.pc + 4#32)
    encode (.and rd rs rt) = [formatR 0#6 rs rt rd 0#5 36#6] ∧ encode (.or rd rs rt) = [formatR 0#6 rs rt rd 0#5 37#6] ∧
    encode (.xor rd rs rt) = [formatR 0#6 rs rt rd 0#5 38#6] ∧ encode (.nor rd rs rt) = [formatR 0#6 rs rt rd 0#5 39#6] ∧
    gives (.and rd rs rt) (fun a b => a && b) ∧ gives (.or rd rs rt) (fun a b => a || b) ∧
    gives (.xor rd rs rt) (fun a b => a != b) ∧ gives (.nor rd rs rt) (fun a b => !(a || b))

/-- andi, ori, xori, bit by bit with 16 zero bits above the immediate (45_logic.md R192, R195, R197). The op and funct
values are decision D15 of the spec. -/
def Obligations.LogicWithImmediate : Prop :=
  ∀ (rt rs : RegNum) (imm : Imm16) (s : State),
    let gives := fun (i : Instr) (f : Bool → Bool → Bool) => ∃ v : Word,
      (∀ k, k < 32 → v.getLsbD k = f ((s.reg rs).getLsbD k) (decide (k < 16) && imm.getLsbD k)) ∧
      completesWithReg (exec i s) s rt v (s.pc + 4#32)
    encode (.andi rt rs imm) = [formatI 12#6 rs rt imm] ∧ encode (.ori rt rs imm) = [formatI 13#6 rs rt imm] ∧
    encode (.xori rt rs imm) = [formatI 14#6 rs rt imm] ∧
    gives (.andi rt rs imm) (fun a b => a && b) ∧ gives (.ori rt rs imm) (fun a b => a || b) ∧
    gives (.xori rt rs imm) (fun a b => a != b)

/-- mfhi, mflo, mthi, mtlo: a 32-bit copy between a general register and Hi or Lo (46_move.md R201, R202, R205, R206).
The op and funct values are decision D15 of the spec. -/
def Obligations.CopiesToAndFromHiLo : Prop :=
  ∀ (rd rs : RegNum) (s : State),
    encode (.mfhi rd) = [formatR 0#6 0#5 0#5 rd 0#5 16#6] ∧ encode (.mflo rd) = [formatR 0#6 0#5 0#5 rd 0#5 18#6] ∧
    encode (.mthi rs) = [formatR 0#6 rs 0#5 0#5 0#5 17#6] ∧ encode (.mtlo rs) = [formatR 0#6 rs 0#5 0#5 0#5 19#6] ∧
    completesWithReg (exec (.mfhi rd) s) s rd s.hi (s.pc + 4#32) ∧
    completesWithReg (exec (.mflo rd) s) s rd s.lo (s.pc + 4#32) ∧
    completesWithHiLo (exec (.mthi rs) s) s (s.reg rs) s.lo ∧
    completesWithHiLo (exec (.mtlo rs) s) s s.hi (s.reg rs)

/-- movn, movz: the copy when x[rt] is not 0 (is 0), else rd keeps its value (46_move.md R203, R204). The op and funct
values are decision D15 of the spec. -/
def Obligations.ConditionalMoves : Prop :=
  ∀ (rd rs rt : RegNum) (s : State),
    encode (.movn rd rs rt) = [formatR 0#6 rs rt rd 0#5 11#6] ∧
    encode (.movz rd rs rt) = [formatR 0#6 rs rt rd 0#5 10#6] ∧
    completesWithReg (exec (.movn rd rs rt) s) s rd (if s.reg rt ≠ 0#32 then s.reg rs else s.reg rd) (s.pc + 4#32) ∧
    completesWithReg (exec (.movz rd rs rt) s) s rd (if s.reg rt = 0#32 then s.reg rs else s.reg rd) (s.pc + 4#32)

/-- sll, srl: by the constant 0 to 31, as multiplication modulo 2^32 and as division by a power of two (47_shift.md);
the word of the source's Figura 15 is sra's. That the zero word decodes to nop and not to sll $0, $0, 0 is the model's
choice (log 12). The op and funct values are decision D15 of the spec. -/
def Obligations.LogicalShiftsByConstant : Prop :=
  ∀ (rd rt : RegNum) (n : Shamt) (s : State),
    encode (.sll rd rt n) = [formatR 0#6 0#5 rt rd n 0#6] ∧ encode (.srl rd rt n) = [formatR 0#6 0#5 rt rd n 2#6] ∧
    decode 0x00000000#32 = .ok .nop ∧ decode 0x00020A83#32 = .ok (.sra 1#5 2#5 10#5) ∧
    (∃ v : Word, v.toNat = (s.reg rt).toNat * 2 ^ n.toNat % 4294967296 ∧
      completesWithReg (exec (.sll rd rt n) s) s rd v (s.pc + 4#32)) ∧
    (∃ v : Word, v.toNat = (s.reg rt).toNat / 2 ^ n.toNat ∧
      completesWithReg (exec (.srl rd rt n) s) s rd v (s.pc + 4#32))

/-- sllv, srlv: the count is x[rs] modulo 32 (47_shift.md R212, R216). The op and funct values are decision D15 of the
spec. -/
def Obligations.LogicalShiftsByRegister : Prop :=
  ∀ (rd rt rs : RegNum) (s : State),
    encode (.sllv rd rt rs) = [formatR 0#6 rs rt rd 0#5 4#6] ∧ encode (.srlv rd rt rs) = [formatR 0#6 rs rt rd 0#5 6#6] ∧
    (∃ v : Word, v.toNat = (s.reg rt).toNat * 2 ^ ((s.reg rs).toNat % 32) % 4294967296 ∧
      completesWithReg (exec (.sllv rd rt rs) s) s rd v (s.pc + 4#32)) ∧
    (∃ v : Word, v.toNat = (s.reg rt).toNat / 2 ^ ((s.reg rs).toNat % 32) ∧
      completesWithReg (exec (.srlv rd rt rs) s) s rd v (s.pc + 4#32))

/-- sra, srav: division of the signed value by a power of two, rounded toward minus infinity
(47_shift.md section 2; the fill is decision D26 of the spec). -/
def Obligations.ArithmeticShiftsRoundDown : Prop :=
  ∀ (rd rt rs : RegNum) (n : Shamt) (s : State),
    (∃ v : Word, v.toInt = (s.reg rt).toInt / 2 ^ n.toNat ∧
      completesWithReg (exec (.sra rd rt n) s) s rd v (s.pc + 4#32)) ∧
    (∃ v : Word, v.toInt = (s.reg rt).toInt / 2 ^ ((s.reg rs).toNat % 32) ∧
      completesWithReg (exec (.srav rd rt rs) s) s rd v (s.pc + 4#32))

/-! ### Traps and pseudo-instructions -/

/-- break, syscall: always the exception, with the 20-bit code, pc not advanced, no register read
(48_trap.md section 2; the kinds are decision D23, the record D4 of the spec). -/
def Obligations.BreakAndSyscallRaise : Prop :=
  ∀ (code : Code20) (s : State),
    takesException (exec (.brk code) s) s (.breakpoint code) ∧ takesException (exec (.syscall code) s) s (.syscall code)

/-- The six register traps: Trap with the 10-bit code where the comparison holds, else pc + 4 alone
(48_trap.md section 2; the kind is decision D23, the record D4 of the spec). -/
def Obligations.RegisterTrapsCompareAndRaise : Prop :=
  ∀ (rs rt : RegNum) (code : Code10) (s : State),
    let a := s.reg rs
    let b := s.reg rt
    let outcome := fun (i : Instr) (c : Prop) => (c → takesException (exec i s) s (.trap (some code))) ∧
      (¬ c → completesWithPc (exec i s) s (s.pc + 4#32))
    outcome (.teq rs rt code) (a = b) ∧ outcome (.tne rs rt code) (a ≠ b) ∧
    outcome (.tge rs rt code) (a.toInt ≥ b.toInt) ∧ outcome (.tgeu rs rt code) (a.toNat ≥ b.toNat) ∧
    outcome (.tlt rs rt code) (a.toInt < b.toInt) ∧ outcome (.tltu rs rt code) (a.toNat < b.toNat)

/-- The six immediate traps: Trap with no code where the comparison holds, else pc + 4 alone; tgeiu and tltiu extend
as UNSIGNED_IMM_EXT says (48_trap.md section 2; decisions D4, D9, D23 of the spec, log 9). -/
def Obligations.ImmediateTrapsCompareAndRaise : Prop :=
  ∀ (rs : RegNum) (imm : Imm16) (s : State),
    let a := s.reg rs
    let e : Nat := match s.params.unsignedImmExt with
      | .zero => imm.toNat
      | .sign => if imm.toNat < 32768 then imm.toNat else imm.toNat + 4294901760
    let outcome := fun (i : Instr) (c : Prop) => (c → takesException (exec i s) s (.trap none)) ∧
      (¬ c → completesWithPc (exec i s) s (s.pc + 4#32))
    outcome (.teqi rs imm) (a.toInt = imm.toInt) ∧ outcome (.tnei rs imm) (a.toInt ≠ imm.toInt) ∧
    outcome (.tgei rs imm) (a.toInt ≥ imm.toInt) ∧ outcome (.tlti rs imm) (a.toInt < imm.toInt) ∧
    outcome (.tgeiu rs imm) (a.toNat ≥ e) ∧ outcome (.tltiu rs imm) (a.toNat < e)

/-- li, la: x[rd] = imm32 and pc two words on, as after lui and then ori, the two words it stands for
(49_pseudo.md; the expansion is decision D25 of the spec, the meaning of the pair as one log 13). -/
def Obligations.LoadImmediateIsLuiThenOri : Prop :=
  ∀ (rd : RegNum) (imm32 : Word) (s : State) (i : Instr), i = .li rd imm32 ∨ i = .la rd imm32 →
    completesWithReg (exec i s) s rd imm32 (s.pc + 8#32) ∧
    ∃ (hi lo : Imm16) (w1 w2 : Word) (t : State),
      (hi ++ lo : Word) = imm32 ∧ encode i = [w1, w2] ∧ encode (.lui rd hi) = [w1] ∧ encode (.ori rd rd lo) = [w2] ∧
      exec (.lui rd hi) s = .next t ∧ exec (.ori rd rd lo) t = exec i s
end

