-- ==== Sys2Proof/Laws/Decode.lean ====
section
/-! SUPPORT. The fields of a word and the words of the formats, as numbers: each is the other's inverse. -/

namespace Sys2Proof

theorem toNat_append_eq {n m : Nat} (x : BitVec n) (y : BitVec m) :
    (x ++ y).toNat = x.toNat * 2 ^ m + y.toNat := by
  rw [BitVec.toNat_append, ← Nat.shiftLeft_add_eq_or_of_lt y.isLt, Nat.shiftLeft_eq]

theorem toNat_extract {n : Nat} (x : BitVec n) (s l : Nat) :
    (x.extractLsb' s l).toNat = x.toNat / 2 ^ s % 2 ^ l := by
  rw [BitVec.extractLsb'_toNat, Nat.shiftRight_eq_div_pow]

theorem toNat_formatR (op : BitVec 6) (rs rt rd : RegNum) (shamt : Shamt) (funct : BitVec 6) :
    (formatR op rs rt rd shamt funct).toNat = op.toNat * 67108864 + rs.toNat * 2097152 + rt.toNat * 65536 +
      rd.toNat * 2048 + shamt.toNat * 64 + funct.toNat := by
  show (op ++ rs ++ rt ++ rd ++ shamt ++ funct).toNat = _
  simp only [toNat_append_eq]
  omega

theorem toNat_formatI (op : BitVec 6) (rs rt : RegNum) (imm : Imm16) :
    (formatI op rs rt imm).toNat = op.toNat * 67108864 + rs.toNat * 2097152 + rt.toNat * 65536 + imm.toNat := by
  show (op ++ rs ++ rt ++ imm).toNat = _
  simp only [toNat_append_eq]
  omega

theorem toNat_formatJ (op : BitVec 6) (target : Target26) :
    (formatJ op target).toNat = op.toNat * 67108864 + target.toNat := by
  show (op ++ target).toNat = _
  simp only [toNat_append_eq]
  omega

theorem toNat_formatCode20 (op : BitVec 6) (code : Code20) (funct : BitVec 6) :
    (formatCode20 op code funct).toNat = op.toNat * 67108864 + code.toNat * 64 + funct.toNat := by
  show (op ++ code ++ funct).toNat = _
  simp only [toNat_append_eq]
  omega

theorem toNat_formatCode10 (op : BitVec 6) (rs rt : RegNum) (code : Code10) (funct : BitVec 6) :
    (formatCode10 op rs rt code funct).toNat = op.toNat * 67108864 + rs.toNat * 2097152 + rt.toNat * 65536 +
      code.toNat * 64 + funct.toNat := by
  show (op ++ rs ++ rt ++ code ++ funct).toNat = _
  simp only [toNat_append_eq]
  omega

/-! ### The fields as numbers -/

theorem toNat_opField (w : Word) : (opField w).toNat = w.toNat / 67108864 := by
  have := w.isLt
  rw [opField, toNat_extract]
  omega

theorem toNat_rsField (w : Word) : (rsField w).toNat = w.toNat / 2097152 % 32 := toNat_extract w 21 5
theorem toNat_rtField (w : Word) : (rtField w).toNat = w.toNat / 65536 % 32 := toNat_extract w 16 5
theorem toNat_rdField (w : Word) : (rdField w).toNat = w.toNat / 2048 % 32 := toNat_extract w 11 5
theorem toNat_shamtField (w : Word) : (shamtField w).toNat = w.toNat / 64 % 32 := toNat_extract w 6 5
theorem toNat_code20Field (w : Word) : (code20Field w).toNat = w.toNat / 64 % 1048576 := toNat_extract w 6 20
theorem toNat_code10Field (w : Word) : (code10Field w).toNat = w.toNat / 64 % 1024 := toNat_extract w 6 10

theorem toNat_functField (w : Word) : (functField w).toNat = w.toNat % 64 := by
  rw [functField, toNat_extract]
  simp

theorem toNat_immField (w : Word) : (immField w).toNat = w.toNat % 65536 := by
  rw [immField, toNat_extract]
  simp

theorem toNat_targetField (w : Word) : (targetField w).toNat = w.toNat % 67108864 := by
  rw [targetField, toNat_extract]
  simp

/-! ### The fields of the words of each format -/

theorem fields_formatR (op : BitVec 6) (rs rt rd : RegNum) (shamt : Shamt) (funct : BitVec 6) :
    let w := formatR op rs rt rd shamt funct
    opField w = op ∧ rsField w = rs ∧ rtField w = rt ∧ rdField w = rd ∧ shamtField w = shamt ∧ functField w = funct := by
  intro w
  have e : w.toNat = _ := toNat_formatR op rs rt rd shamt funct
  have := op.isLt; have := rs.isLt; have := rt.isLt; have := rd.isLt; have := shamt.isLt; have := funct.isLt
  refine ⟨?_, ?_, ?_, ?_, ?_, ?_⟩ <;> apply BitVec.eq_of_toNat_eq <;>
    simp only [toNat_opField, toNat_rsField, toNat_rtField, toNat_rdField, toNat_shamtField, toNat_functField, e] <;>
    omega

theorem fields_formatI (op : BitVec 6) (rs rt : RegNum) (imm : Imm16) :
    let w := formatI op rs rt imm
    opField w = op ∧ rsField w = rs ∧ rtField w = rt ∧ immField w = imm := by
  intro w
  have e : w.toNat = _ := toNat_formatI op rs rt imm
  have := op.isLt; have := rs.isLt; have := rt.isLt; have := imm.isLt
  refine ⟨?_, ?_, ?_, ?_⟩ <;> apply BitVec.eq_of_toNat_eq <;>
    simp only [toNat_opField, toNat_rsField, toNat_rtField, toNat_immField, e] <;>
    omega

theorem fields_formatJ (op : BitVec 6) (target : Target26) :
    let w := formatJ op target
    opField w = op ∧ targetField w = target := by
  intro w
  have e : w.toNat = _ := toNat_formatJ op target
  have := op.isLt; have := target.isLt
  refine ⟨?_, ?_⟩ <;> apply BitVec.eq_of_toNat_eq <;>
    simp only [toNat_opField, toNat_targetField, e] <;>
    omega

theorem fields_formatCode20 (op : BitVec 6) (code : Code20) (funct : BitVec 6) :
    let w := formatCode20 op code funct
    opField w = op ∧ code20Field w = code ∧ functField w = funct := by
  intro w
  have e : w.toNat = _ := toNat_formatCode20 op code funct
  have := op.isLt; have := code.isLt; have := funct.isLt
  refine ⟨?_, ?_, ?_⟩ <;> apply BitVec.eq_of_toNat_eq <;>
    simp only [toNat_opField, toNat_code20Field, toNat_functField, e] <;>
    omega

theorem fields_formatCode10 (op : BitVec 6) (rs rt : RegNum) (code : Code10) (funct : BitVec 6) :
    let w := formatCode10 op rs rt code funct
    opField w = op ∧ rsField w = rs ∧ rtField w = rt ∧ code10Field w = code ∧ functField w = funct := by
  intro w
  have e : w.toNat = _ := toNat_formatCode10 op rs rt code funct
  have := op.isLt; have := rs.isLt; have := rt.isLt; have := code.isLt; have := funct.isLt
  refine ⟨?_, ?_, ?_, ?_, ?_⟩ <;> apply BitVec.eq_of_toNat_eq <;>
    simp only [toNat_opField, toNat_rsField, toNat_rtField, toNat_code10Field, toNat_functField, e] <;>
    omega

/-! ### A word is made of its fields -/

theorem formatR_fields (w : Word) :
    formatR (opField w) (rsField w) (rtField w) (rdField w) (shamtField w) (functField w) = w := by
  apply BitVec.eq_of_toNat_eq
  rw [toNat_formatR, toNat_opField, toNat_rsField, toNat_rtField, toNat_rdField, toNat_shamtField, toNat_functField]
  omega

theorem formatI_fields (w : Word) : formatI (opField w) (rsField w) (rtField w) (immField w) = w := by
  apply BitVec.eq_of_toNat_eq
  rw [toNat_formatI, toNat_opField, toNat_rsField, toNat_rtField, toNat_immField]
  omega

theorem formatJ_fields (w : Word) : formatJ (opField w) (targetField w) = w := by
  apply BitVec.eq_of_toNat_eq
  rw [toNat_formatJ, toNat_opField, toNat_targetField]
  omega

theorem formatCode20_fields (w : Word) : formatCode20 (opField w) (code20Field w) (functField w) = w := by
  apply BitVec.eq_of_toNat_eq
  rw [toNat_formatCode20, toNat_opField, toNat_code20Field, toNat_functField]
  omega

theorem formatCode10_fields (w : Word) :
    formatCode10 (opField w) (rsField w) (rtField w) (code10Field w) (functField w) = w := by
  apply BitVec.eq_of_toNat_eq
  rw [toNat_formatCode10, toNat_opField, toNat_rsField, toNat_rtField, toNat_code10Field, toNat_functField]
  omega

/-! ### The canonical name -/

theorem Instr.canonical_canonical (i : Instr) : i.canonical.canonical = i.canonical := by
  cases i <;> try rfl
  case sll rd rt shamt =>
    by_cases h : rd = 0#5 ∧ rt = 0#5 ∧ shamt = 0#5 <;> simp [Instr.canonical, h]
  case beq rs rt imm =>
    by_cases h : rs = 0#5 ∧ rt = 0#5 <;> simp [Instr.canonical, h]
  case bgezal rs imm =>
    by_cases h : rs = 0#5 <;> simp [Instr.canonical, h]

theorem Instr.isPseudo_canonical (i : Instr) : i.canonical.isPseudo = i.isPseudo := by
  cases i <;> try rfl
  all_goals
    simp only [Instr.canonical]
    split <;> rfl

/-- A special case and its alias are the same word (30_encoding.md R101). -/
theorem encode_canonical (i : Instr) : encode i.canonical = encode i := by
  cases i <;> try rfl
  all_goals
    simp only [Instr.canonical]
    split <;> [skip; rfl]
  · rename_i h
    obtain ⟨rfl, rfl⟩ := h
    rfl
  · rename_i h
    subst h
    rfl
  · rename_i h
    obtain ⟨rfl, rfl, rfl⟩ := h
    rfl

end Sys2Proof
end

