-- ==== Sys2Proof/Laws/Memory.lean ====
section
/-! SUPPORT. Reading after writing, and the canonical form of memory: every memory operation keeps it. -/

namespace Sys2Proof.Machine

/-! ### One byte -/

theorem Memory.readByte_eraseAt (m : Memory) (a q : Nat) :
    (m.eraseAt a).readByte q = if q = a then Memory.unlisted else m.readByte q := by
  induction m with
  | nil => simp [Memory.eraseAt, Memory.readByte]
  | cons c m ih =>
    obtain ⟨k, b⟩ := c
    by_cases hka : k = a
    · simp only [Memory.eraseAt, hka, if_true, ih, Memory.readByte]
      by_cases hq : q = a
      · simp [hq]
      · simp [hq, Ne.symm hq]
    · simp only [Memory.eraseAt, hka, if_false, Memory.readByte, ih]
      by_cases hkq : k = q
      · have : q ≠ a := by rw [← hkq]; exact hka
        simp [hkq, this]
      · simp [hkq]

theorem Memory.readByte_insertAt (m : Memory) (a : Nat) (v : Byte) (q : Nat) (h : ∀ c ∈ m, c.1 ≠ a) :
    (m.insertAt a v).readByte q = if q = a then v else m.readByte q := by
  induction m with
  | nil =>
    by_cases hq : q = a
    · simp [Memory.insertAt, Memory.readByte, hq]
    · simp [Memory.insertAt, Memory.readByte, hq, Ne.symm hq]
  | cons c m ih =>
    obtain ⟨k, b⟩ := c
    have hk : k ≠ a := h (k, b) (by simp)
    have ih' := ih fun c hc => h c (by simp [hc])
    by_cases hlt : a < k
    · by_cases hq : q = a
      · simp [Memory.insertAt, hlt, Memory.readByte, hq]
      · simp [Memory.insertAt, hlt, Memory.readByte, hq, Ne.symm hq]
    · simp only [Memory.insertAt, hlt, if_false, Memory.readByte, ih']
      by_cases hkq : k = q
      · have : q ≠ a := by rw [← hkq]; exact hk
        simp [hkq, this]
      · simp [hkq]

theorem Memory.mem_eraseAt {m : Memory} {a : Nat} {c : Host.Cell} (h : c ∈ m.eraseAt a) : c ∈ m ∧ c.1 ≠ a := by
  induction m with
  | nil => simp [Memory.eraseAt] at h
  | cons d m ih =>
    obtain ⟨k, b⟩ := d
    by_cases hk : k = a
    · rw [Memory.eraseAt, if_pos hk] at h
      exact ⟨List.mem_cons_of_mem _ (ih h).1, (ih h).2⟩
    · rw [Memory.eraseAt, if_neg hk, List.mem_cons] at h
      rcases h with rfl | h
      · exact ⟨by simp, hk⟩
      · exact ⟨List.mem_cons_of_mem _ (ih h).1, (ih h).2⟩

/-- A byte written is read back; every other byte reads as before (20_memory.md R55, R60). -/
theorem Memory.readByte_writeByte (m : Memory) (a : Nat) (v : Byte) (q : Nat) :
    (m.writeByte a v).readByte q = if q = a then v else m.readByte q := by
  by_cases hv : v = Memory.unlisted
  · simp [Memory.writeByte, hv, Memory.readByte_eraseAt]
  · rw [Memory.writeByte, if_neg hv,
      Memory.readByte_insertAt _ _ _ _ fun c hc => (Memory.mem_eraseAt hc).2, Memory.readByte_eraseAt]
    by_cases hq : q = a <;> simp [hq]

/-! ### The canonical form -/

theorem Memory.wf_nil : Memory.wf [] := by simp [Memory.wf]

theorem Memory.eraseAt_wf {m : Memory} (a : Nat) (h : m.wf) : (m.eraseAt a).wf := by
  refine ⟨?_, fun c hc => h.2 c (Memory.mem_eraseAt hc).1⟩
  have hp := h.1
  clear h
  induction m with
  | nil => simp [Memory.eraseAt]
  | cons d m ih =>
    obtain ⟨k, b⟩ := d
    rw [List.pairwise_cons] at hp
    by_cases hk : k = a
    · rw [Memory.eraseAt, if_pos hk]
      exact ih hp.2
    · rw [Memory.eraseAt, if_neg hk, List.pairwise_cons]
      exact ⟨fun c hc => hp.1 c (Memory.mem_eraseAt hc).1, ih hp.2⟩

theorem Memory.mem_insertAt {m : Memory} {a : Nat} {v : Byte} {c : Host.Cell} (h : c ∈ m.insertAt a v) :
    c = (a, v) ∨ c ∈ m := by
  induction m with
  | nil => simpa [Memory.insertAt] using h
  | cons d m ih =>
    obtain ⟨k, b⟩ := d
    by_cases hlt : a < k
    · simpa [Memory.insertAt, hlt] using h
    · rw [Memory.insertAt, if_neg hlt, List.mem_cons] at h
      rcases h with rfl | h
      · exact .inr (by simp)
      · exact (ih h).imp id (List.mem_cons_of_mem _)

theorem Memory.insertAt_wf {m : Memory} {a : Nat} {v : Byte} (h : m.wf) (hn : ∀ c ∈ m, c.1 ≠ a)
    (ha : a < 4294967296) (hv : v ≠ Memory.unlisted) : (m.insertAt a v).wf := by
  refine ⟨?_, fun c hc => ?_⟩
  · have hp := h.1
    clear h
    induction m with
    | nil => simp [Memory.insertAt]
    | cons d m ih =>
      obtain ⟨k, b⟩ := d
      have hk : k ≠ a := hn (k, b) (by simp)
      rw [List.pairwise_cons] at hp
      by_cases hlt : a < k
      · rw [Memory.insertAt, if_pos hlt, List.pairwise_cons, List.pairwise_cons]
        refine ⟨fun c hc => ?_, hp⟩
        rcases List.mem_cons.1 hc with rfl | hc
        · exact hlt
        · exact lt_trans hlt (hp.1 c hc)
      · rw [Memory.insertAt, if_neg hlt, List.pairwise_cons]
        refine ⟨fun c hc => ?_, ih (fun c hc => hn c (List.mem_cons_of_mem _ hc)) hp.2⟩
        rcases Memory.mem_insertAt hc with rfl | hc
        · exact show k < a by omega
        · exact hp.1 c hc
  · rcases Memory.mem_insertAt hc with rfl | hc
    · exact ⟨ha, hv⟩
    · exact h.2 c hc

/-- A write of one byte keeps the canonical form. -/
theorem Memory.writeByte_wf {m : Memory} {a : Nat} (v : Byte) (h : m.wf) (ha : a < 4294967296) :
    (m.writeByte a v).wf := by
  by_cases hv : v = Memory.unlisted
  · rw [Memory.writeByte, if_pos hv]
    exact Memory.eraseAt_wf a h
  · rw [Memory.writeByte, if_neg hv]
    exact Memory.insertAt_wf (Memory.eraseAt_wf a h) (fun c hc => (Memory.mem_eraseAt hc).2) ha hv

/-- A write of several bytes that lie in the space keeps the canonical form. -/
theorem Memory.writeBytes_wf (bs : List Byte) {m : Memory} {a : Nat} (h : m.wf) (ha : a + bs.length ≤ 4294967296) :
    (m.writeBytes a bs).wf := by
  induction bs generalizing m a with
  | nil => exact h
  | cons b bs ih =>
    rw [List.length_cons] at ha
    exact ih (Memory.writeByte_wf b h (by omega)) (by omega)

/-- Placing an image keeps the canonical form. -/
theorem loadImage_wf (cells : List Host.Cell) {m : Memory} (h : m.wf) (hc : ∀ c ∈ cells, c.1 < 4294967296) :
    (loadImage cells m).wf := by
  induction cells generalizing m with
  | nil => exact h
  | cons c cells ih =>
    exact ih (Memory.writeByte_wf c.2 h (hc c (by simp))) fun d hd => hc d (by simp [hd])

theorem reset_mem_wf : State.reset.mem.wf := Memory.wf_nil

/-! ### Several bytes -/

/-- What a byte reads after a write of several: the written byte inside, as before outside (20_memory.md R55). -/
theorem Memory.readByte_writeBytes (bs : List Byte) (m : Memory) (a q : Nat) :
    (m.writeBytes a bs).readByte q =
      if h : a ≤ q ∧ q - a < bs.length then bs[q - a]'h.2 else m.readByte q := by
  induction bs generalizing m a with
  | nil => simp [Memory.writeBytes]
  | cons b bs ih =>
    rw [Memory.writeBytes, ih, Memory.readByte_writeByte]
    by_cases hlt : q < a
    · rw [dif_neg (by omega), dif_neg (by omega), if_neg (by omega)]
    · by_cases hq : q = a
      · subst hq
        simp
      · by_cases hin : q - a < bs.length + 1
        · have e : q - a = (q - (a + 1)) + 1 := by omega
          rw [dif_pos ⟨by omega, by omega⟩, dif_pos ⟨by omega, by simpa using hin⟩]
          simp [e]
        · rw [dif_neg (by omega), dif_neg (by simp only [List.length_cons]; omega), if_neg hq]

theorem Memory.length_readBytes (m : Memory) (a n : Nat) : (m.readBytes a n).length = n := by
  induction n generalizing a with
  | zero => rfl
  | succ n ih => simp [Memory.readBytes, ih]

theorem Memory.getElem_readBytes (m : Memory) (a n k : Nat) (h : k < (m.readBytes a n).length) :
    (m.readBytes a n)[k] = m.readByte (a + k) := by
  induction n generalizing a k with
  | zero => simp [Memory.readBytes] at h
  | succ n ih =>
    cases k with
    | zero => simp [Memory.readBytes]
    | succ k =>
      simp only [Memory.readBytes, List.getElem_cons_succ]
      rw [ih, Nat.add_assoc, Nat.add_comm 1 k]

/-- Bytes written are read back in place. -/
theorem Memory.readBytes_writeBytes (bs : List Byte) (m : Memory) (a : Nat) :
    (m.writeBytes a bs).readBytes a bs.length = bs := by
  refine List.ext_getElem (Memory.length_readBytes _ _ _) fun k h1 h2 => ?_
  rw [Memory.getElem_readBytes, Memory.readByte_writeBytes, dif_pos ⟨by omega, by omega⟩]
  simp

/-! ### Bytes of a word -/

theorem length_splitBytes (n : Nat) (v : Word) : (splitBytes n v).length = n := by
  induction n generalizing v with
  | zero => rfl
  | succ n ih => simp [splitBytes, ih]

@[simp] theorem length_byteOrder (e : Endian) (bs : List Byte) : (byteOrder e bs).length = bs.length := by
  cases e <;> simp [byteOrder]

@[simp] theorem byteOrder_byteOrder (e : Endian) (bs : List Byte) : byteOrder e (byteOrder e bs) = bs := by
  cases e <;> simp [byteOrder]

end Sys2Proof.Machine
end

