-- ==== Sys2Proof/Laws/State.lean ====
section
/-! SUPPORT. What each update of State leaves in each field, and what reading a register gives after it. -/

namespace Sys2Proof.Machine

section
variable (s : State) (r : RegNum) (v : Word)

theorem State.setReg_regs : (s.setReg r v).regs = if r = 0#5 then s.regs else s.regs.set r.toNat v := rfl
@[simp] theorem State.setReg_hi : (s.setReg r v).hi = s.hi := rfl
@[simp] theorem State.setReg_lo : (s.setReg r v).lo = s.lo := rfl
@[simp] theorem State.setReg_pc : (s.setReg r v).pc = s.pc := rfl
@[simp] theorem State.setReg_mem : (s.setReg r v).mem = s.mem := rfl
@[simp] theorem State.setReg_trap : (s.setReg r v).trap = s.trap := rfl
@[simp] theorem State.setReg_params : (s.setReg r v).params = s.params := rfl
@[simp] theorem State.setReg_draws : (s.setReg r v).draws = s.draws := rfl

end

section
variable (s : State) (v : HiLo)

@[simp] theorem State.setHiLo_regs : (s.setHiLo v).regs = s.regs := rfl
@[simp] theorem State.setHiLo_hi : (s.setHiLo v).hi = v.hi := rfl
@[simp] theorem State.setHiLo_lo : (s.setHiLo v).lo = v.lo := rfl
@[simp] theorem State.setHiLo_pc : (s.setHiLo v).pc = s.pc := rfl
@[simp] theorem State.setHiLo_mem : (s.setHiLo v).mem = s.mem := rfl
@[simp] theorem State.setHiLo_trap : (s.setHiLo v).trap = s.trap := rfl
@[simp] theorem State.setHiLo_params : (s.setHiLo v).params = s.params := rfl
@[simp] theorem State.setHiLo_draws : (s.setHiLo v).draws = s.draws := rfl

end

section
variable (s : State)

@[simp] theorem State.drawHiLo_regs : (s.drawHiLo).regs = s.regs := rfl
@[simp] theorem State.drawHiLo_hi : (s.drawHiLo).hi = Config.freeWord s.draws := rfl
@[simp] theorem State.drawHiLo_lo : (s.drawHiLo).lo = Config.freeWord (s.draws + 1) := rfl
@[simp] theorem State.drawHiLo_pc : (s.drawHiLo).pc = s.pc := rfl
@[simp] theorem State.drawHiLo_mem : (s.drawHiLo).mem = s.mem := rfl
@[simp] theorem State.drawHiLo_trap : (s.drawHiLo).trap = s.trap := rfl
@[simp] theorem State.drawHiLo_params : (s.drawHiLo).params = s.params := rfl
@[simp] theorem State.drawHiLo_draws : (s.drawHiLo).draws = s.draws + 2 := rfl

end

section
variable (s : State) (target : Word)

@[simp] theorem State.goto_regs : (s.goto target).regs = s.regs := rfl
@[simp] theorem State.goto_hi : (s.goto target).hi = s.hi := rfl
@[simp] theorem State.goto_lo : (s.goto target).lo = s.lo := rfl
@[simp] theorem State.goto_pc : (s.goto target).pc = target := rfl
@[simp] theorem State.goto_mem : (s.goto target).mem = s.mem := rfl
@[simp] theorem State.goto_trap : (s.goto target).trap = s.trap := rfl
@[simp] theorem State.goto_params : (s.goto target).params = s.params := rfl
@[simp] theorem State.goto_draws : (s.goto target).draws = s.draws := rfl

end

section
variable (s : State)

@[simp] theorem State.advance_regs : (s.advance).regs = s.regs := rfl
@[simp] theorem State.advance_hi : (s.advance).hi = s.hi := rfl
@[simp] theorem State.advance_lo : (s.advance).lo = s.lo := rfl
@[simp] theorem State.advance_pc : (s.advance).pc = nextPc s.pc := rfl
@[simp] theorem State.advance_mem : (s.advance).mem = s.mem := rfl
@[simp] theorem State.advance_trap : (s.advance).trap = s.trap := rfl
@[simp] theorem State.advance_params : (s.advance).params = s.params := rfl
@[simp] theorem State.advance_draws : (s.advance).draws = s.draws := rfl

end

section
variable (s : State) (w : Width) (a v : Word)

@[simp] theorem State.storeAt_regs : (s.storeAt w a v).regs = s.regs := rfl
@[simp] theorem State.storeAt_hi : (s.storeAt w a v).hi = s.hi := rfl
@[simp] theorem State.storeAt_lo : (s.storeAt w a v).lo = s.lo := rfl
@[simp] theorem State.storeAt_pc : (s.storeAt w a v).pc = s.pc := rfl
@[simp] theorem State.storeAt_mem : (s.storeAt w a v).mem =
    s.mem.writeBytes a.toNat (byteOrder s.params.endian (splitBytes w.bytes v)) := rfl
@[simp] theorem State.storeAt_trap : (s.storeAt w a v).trap = s.trap := rfl
@[simp] theorem State.storeAt_params : (s.storeAt w a v).params = s.params := rfl
@[simp] theorem State.storeAt_draws : (s.storeAt w a v).draws = s.draws := rfl

end

section
variable (s : State) (c : Cause)

@[simp] theorem State.raised_regs : (s.raised c).regs = s.regs := rfl
@[simp] theorem State.raised_hi : (s.raised c).hi = s.hi := rfl
@[simp] theorem State.raised_lo : (s.raised c).lo = s.lo := rfl
@[simp] theorem State.raised_pc : (s.raised c).pc = s.pc := rfl
@[simp] theorem State.raised_mem : (s.raised c).mem = s.mem := rfl
@[simp] theorem State.raised_trap : (s.raised c).trap = some ⟨c, s.pc⟩ := rfl
@[simp] theorem State.raised_params : (s.raised c).params = s.params := rfl
@[simp] theorem State.raised_draws : (s.raised c).draws = s.draws := rfl

end

section
variable (s : State) (target : Word)

@[simp] theorem State.resumeAt_regs : (s.resumeAt target).regs = s.regs := rfl
@[simp] theorem State.resumeAt_hi : (s.resumeAt target).hi = s.hi := rfl
@[simp] theorem State.resumeAt_lo : (s.resumeAt target).lo = s.lo := rfl
@[simp] theorem State.resumeAt_pc : (s.resumeAt target).pc = target := rfl
@[simp] theorem State.resumeAt_mem : (s.resumeAt target).mem = s.mem := rfl
@[simp] theorem State.resumeAt_trap : (s.resumeAt target).trap = none := rfl
@[simp] theorem State.resumeAt_params : (s.resumeAt target).params = s.params := rfl
@[simp] theorem State.resumeAt_draws : (s.resumeAt target).draws = s.draws := rfl

end

@[simp] theorem State.setHiLo_reg (s : State) (v : HiLo) (q : RegNum) : (s.setHiLo v).reg q = s.reg q := rfl
@[simp] theorem State.drawHiLo_reg (s : State) (q : RegNum) : (s.drawHiLo).reg q = s.reg q := rfl
@[simp] theorem State.goto_reg (s : State) (target : Word) (q : RegNum) : (s.goto target).reg q = s.reg q := rfl
@[simp] theorem State.advance_reg (s : State) (q : RegNum) : (s.advance).reg q = s.reg q := rfl
@[simp] theorem State.storeAt_reg (s : State) (w : Width) (a v : Word) (q : RegNum) : (s.storeAt w a v).reg q = s.reg q := rfl
@[simp] theorem State.raised_reg (s : State) (c : Cause) (q : RegNum) : (s.raised c).reg q = s.reg q := rfl
@[simp] theorem State.resumeAt_reg (s : State) (target : Word) (q : RegNum) : (s.resumeAt target).reg q = s.reg q := rfl

/-- Register 0 always reads 0 (10_state.md R21). -/
@[simp] theorem State.reg_zero (s : State) : s.reg 0#5 = 0#32 := rfl

/-- What a register reads after a write: register 0 reads 0, the written register its new value, every other
register what it read before (10_state.md R21). -/
theorem State.setReg_reg (s : State) (r : RegNum) (v : Word) (q : RegNum) :
    (s.setReg r v).reg q = if q = 0#5 then 0#32 else if q = r then v else s.reg q := by
  by_cases hq : q = 0#5
  · simp [hq, State.reg]
  · by_cases hr : r = 0#5
    · have hqr : q ≠ r := by rw [hr]; exact hq
      simp [State.reg, State.setReg, hq, hr]
    · by_cases hqr : q = r
      · simp [State.reg, State.setReg, hqr, hr]
      · have hne : r.toNat ≠ q.toNat := fun h => hqr (BitVec.eq_of_toNat_eq h.symm)
        simp [State.reg, State.setReg, hq, hr, hqr, Vector.getElem_set_ne _ _ hne]

/-- A write to register 0 is discarded (10_state.md R21). -/
@[simp] theorem State.setReg_zero (s : State) (v : Word) : s.setReg 0#5 v = s := rfl

/-- Slot 0, which nothing reads, is left alone by every register write. -/
@[simp] theorem State.setReg_slot_zero (s : State) (r : RegNum) (v : Word) :
    (s.setReg r v).regs[0] = s.regs[0] := by
  by_cases hr : r = 0#5
  · simp [State.setReg, hr]
  · have hne : r.toNat ≠ 0 := fun h => hr (BitVec.eq_of_toNat_eq h)
    simp [State.setReg, hr, Vector.getElem_set_ne _ _ hne]

end Sys2Proof.Machine
end

