-- ==== Sys2Proof/Laws/Ops.lean ====
section
/-! SUPPORT. For each shared operation, once, everything it can do. -/

namespace Sys2Proof.Machine

/-! ### Accesses -/

/-- An access that passes its checks is aligned and valid (20_memory.md R54). -/
theorem accessError_eq_none {s : State} {access : Access} {w : Width} {a : Word} :
    accessError s access w a = none ↔
      aligned w a = true ∧ memValid s.params a.toNat w.bytes access = true := by
  unfold accessError
  cases aligned w a <;> cases memValid s.params a.toNat w.bytes access <;> simp

/-- An access that fails its checks raises AddressError with its address (20_memory.md R54). -/
theorem accessError_eq_some {s : State} {access : Access} {w : Width} {a : Word} {c : Cause} :
    accessError s access w a = some c ↔
      (aligned w a = false ∨ memValid s.params a.toNat w.bytes access = false) ∧ c = .addressError access a := by
  unfold accessError
  cases aligned w a <;> cases memValid s.params a.toNat w.bytes access <;> simp [eq_comm]

/-- What `memRead` can answer (20_memory.md R54). -/
theorem memRead_cases (s : State) (access : Access) (w : Width) (a : Word) :
    (accessError s access w a = none ∧ memRead s access w a = .ok (s.valueAt w a)) ∨
    (accessError s access w a = some (.addressError access a) ∧
      memRead s access w a = .error (.addressError access a)) := by
  unfold memRead
  cases h : accessError s access w a with
  | none => exact .inl ⟨rfl, rfl⟩
  | some c =>
    obtain ⟨_, rfl⟩ := accessError_eq_some.1 h
    exact .inr ⟨rfl, rfl⟩

/-- What `memWrite` can answer (20_memory.md R55). -/
theorem memWrite_cases (s : State) (w : Width) (a v : Word) :
    (accessError s .store w a = none ∧ memWrite s w a v = .ok (s.storeAt w a v)) ∨
    (accessError s .store w a = some (.addressError .store a) ∧
      memWrite s w a v = .error (.addressError .store a)) := by
  unfold memWrite
  cases h : accessError s .store w a with
  | none => exact .inl ⟨rfl, rfl⟩
  | some c =>
    obtain ⟨_, rfl⟩ := accessError_eq_some.1 h
    exact .inr ⟨rfl, rfl⟩

/-- An aligned access does not cross the top of the address space. -/
theorem aligned_add_le {w : Width} {a : Word} (h : aligned w a = true) : a.toNat + w.bytes ≤ 4294967296 := by
  have ha := a.isLt
  cases w <;> simp [aligned, Width.bytes] at * <;> omega

/-- A store that passes its checks keeps the canonical form of memory. -/
theorem storeAt_wf {s : State} {w : Width} {a : Word} (v : Word) (h : s.mem.wf) (ha : aligned w a = true) :
    (s.storeAt w a v).mem.wf := by
  refine Memory.writeBytes_wf _ h ?_
  rw [length_byteOrder, length_splitBytes]
  exact aligned_add_le ha

/-! ### The shapes of the meanings -/

@[simp] theorem raise_eq_next {c : Cause} {s t : State} : raise c s = .next t ↔ s.raised c = t := by
  simp [raise]

@[simp] theorem writeBack_eq_next {rd : RegNum} {v : Word} {s t : State} :
    writeBack rd v s = .next t ↔ (s.setReg rd v).advance = t := by
  simp [writeBack]

@[simp] theorem writeHiLo_eq_next {v : HiLo} {s t : State} :
    writeHiLo v s = .next t ↔ (s.setHiLo v).advance = t := by
  simp [writeHiLo]

@[simp] theorem writeDword_eq_next {v : Dword} {s t : State} :
    writeDword v s = .next t ↔ (s.setHiLo ⟨highWord v, lowWord v⟩).advance = t := by
  simp [writeDword]

@[simp] theorem anyHiLo_eq_next {s t : State} : anyHiLo s = .next t ↔ s.drawHiLo.advance = t := by
  simp [anyHiLo]

/-- A load either raises AddressError or writes its register (43_load.md R170). -/
theorem loadInto_cases (w : Width) (extend : Word → Word) (rt rs : RegNum) (imm : Imm16) (s : State) :
    let ea := effectiveAddress (s.reg rs) imm
    (accessError s .load w ea = none ∧
      loadInto w extend rt rs imm s = .next (s.setReg rt (extend (s.valueAt w ea))).advance) ∨
    (accessError s .load w ea = some (.addressError .load ea) ∧
      loadInto w extend rt rs imm s = .next (s.raised (.addressError .load ea))) := by
  intro ea
  unfold loadInto
  rcases memRead_cases s .load w ea with ⟨h, e⟩ | ⟨h, e⟩
  · exact .inl ⟨h, by simp only [show memRead s .load w (effectiveAddress (s.reg rs) imm) = _ from e]; rfl⟩
  · exact .inr ⟨h, by simp only [show memRead s .load w (effectiveAddress (s.reg rs) imm) = _ from e]; rfl⟩

/-- A store either raises AddressError or stores its bytes (44_store.md R180). -/
theorem storeFrom_cases (w : Width) (rt rs : RegNum) (imm : Imm16) (s : State) :
    let ea := effectiveAddress (s.reg rs) imm
    (accessError s .store w ea = none ∧ storeFrom w rt rs imm s = .next (s.storeAt w ea (s.reg rt)).advance) ∨
    (accessError s .store w ea = some (.addressError .store ea) ∧
      storeFrom w rt rs imm s = .next (s.raised (.addressError .store ea))) := by
  intro ea
  unfold storeFrom
  rcases memWrite_cases s w ea (s.reg rt) with ⟨h, e⟩ | ⟨h, e⟩
  · exact .inl ⟨h, by simp only [show memWrite s w (effectiveAddress (s.reg rs) imm) _ = _ from e]⟩
  · exact .inr ⟨h, by simp only [show memWrite s w (effectiveAddress (s.reg rs) imm) _ = _ from e]; rfl⟩

/-- A branch goes to its target or to the next instruction (41_branch_jump.md R140). -/
theorem branchIf_cases (c : Bool) (imm : Imm16) (s : State) :
    (c = true ∧ branchIf c imm s = .next (s.goto (branchTarget s.pc imm))) ∨
    (c = false ∧ branchIf c imm s = .next (s.goto (nextPc s.pc))) := by
  cases c
  · exact .inr ⟨rfl, rfl⟩
  · exact .inl ⟨rfl, rfl⟩

/-- A linking branch writes $31, taken or not (41_branch_jump.md R146). -/
theorem branchLinkIf_cases (c : Bool) (imm : Imm16) (s : State) :
    (c = true ∧ branchLinkIf c imm s = .next ((s.setReg 31#5 (nextPc s.pc)).goto (branchTarget s.pc imm))) ∨
    (c = false ∧ branchLinkIf c imm s = .next ((s.setReg 31#5 (nextPc s.pc)).goto (nextPc s.pc))) := by
  cases c
  · exact .inr ⟨rfl, rfl⟩
  · exact .inl ⟨rfl, rfl⟩

/-- A conditional trap raises Trap or only advances (48_trap.md R220). -/
theorem trapIf_cases (c : Bool) (code : Option Code10) (s : State) :
    (c = true ∧ trapIf c code s = .next (s.raised (.trap code))) ∨
    (c = false ∧ trapIf c code s = .next s.advance) := by
  cases c
  · exact .inr ⟨rfl, rfl⟩
  · exact .inl ⟨rfl, rfl⟩

/-! ### The step -/

/-- What the fetch and the decoder can answer (00_scope.md R17, 60_exceptions.md R261). -/
theorem fetchDecode_cases (s : State) :
    (accessError s .fetch .word s.pc = some (.addressError .fetch s.pc) ∧
      fetchDecode s = .error (.addressError .fetch s.pc)) ∨
    (accessError s .fetch .word s.pc = none ∧ ∃ r, decode (s.valueAt .word s.pc) = .error r ∧
      fetchDecode s = .error (.reservedInstruction (s.valueAt .word s.pc))) ∨
    (accessError s .fetch .word s.pc = none ∧ ∃ i, decode (s.valueAt .word s.pc) = .ok i ∧ fetchDecode s = .ok i) := by
  unfold fetchDecode
  rcases memRead_cases s .fetch .word s.pc with ⟨h, e⟩ | ⟨h, e⟩
  · right
    simp only [e]
    cases hd : decode (s.valueAt .word s.pc) with
    | error r => exact .inl ⟨h, r, rfl, rfl⟩
    | ok i => exact .inr ⟨h, i, rfl, rfl⟩
  · exact .inl ⟨h, by simp only [e]⟩

/-- Everything a step can do (00_scope.md R17). -/
theorem step_cases (s : State) :
    (∃ record, s.trap = some record ∧ step s = .fault (.runEnded record)) ∨
    (s.trap = none ∧ ∃ c, fetchDecode s = .error c ∧ step s = .next (s.raised c)) ∨
    (s.trap = none ∧ ∃ i, fetchDecode s = .ok i ∧ step s = exec i s) := by
  unfold step
  cases ht : s.trap with
  | some record => exact .inl ⟨record, rfl, rfl⟩
  | none =>
    right
    cases hf : fetchDecode s with
    | error c => exact .inl ⟨rfl, c, rfl, rfl⟩
    | ok i => exact .inr ⟨rfl, i, rfl, rfl⟩

end Sys2Proof.Machine
end

