-- ==== Sys2Proof/Laws/PerInstr.lean ====
section
/-! SUPPORT. The family made per instruction: how many words each instruction has. -/

namespace Sys2Proof.Laws

/-- A machine instruction is one word (30_encoding.md R80), a pseudo-instruction two (49_pseudo.md R241, R242). -/
def EncodedLength.Statement (i : Instr) : Prop := (encode i).length = if i.isPseudo then 2 else 1

theorem EncodedLength.add (rd rs rt : RegNum) : EncodedLength.Statement (.add rd rs rt) := rfl
theorem EncodedLength.addi (rt rs : RegNum) (imm : Imm16) : EncodedLength.Statement (.addi rt rs imm) := rfl
theorem EncodedLength.addiu (rt rs : RegNum) (imm : Imm16) : EncodedLength.Statement (.addiu rt rs imm) := rfl
theorem EncodedLength.addu (rd rs rt : RegNum) : EncodedLength.Statement (.addu rd rs rt) := rfl
theorem EncodedLength.clo (rd rs : RegNum) : EncodedLength.Statement (.clo rd rs) := rfl
theorem EncodedLength.clz (rd rs : RegNum) : EncodedLength.Statement (.clz rd rs) := rfl
theorem EncodedLength.div (rs rt : RegNum) : EncodedLength.Statement (.div rs rt) := rfl
theorem EncodedLength.divu (rs rt : RegNum) : EncodedLength.Statement (.divu rs rt) := rfl
theorem EncodedLength.madd (rs rt : RegNum) : EncodedLength.Statement (.madd rs rt) := rfl
theorem EncodedLength.maddu (rs rt : RegNum) : EncodedLength.Statement (.maddu rs rt) := rfl
theorem EncodedLength.msub (rs rt : RegNum) : EncodedLength.Statement (.msub rs rt) := rfl
theorem EncodedLength.msubu (rs rt : RegNum) : EncodedLength.Statement (.msubu rs rt) := rfl
theorem EncodedLength.mul (rd rs rt : RegNum) : EncodedLength.Statement (.mul rd rs rt) := rfl
theorem EncodedLength.mult (rs rt : RegNum) : EncodedLength.Statement (.mult rs rt) := rfl
theorem EncodedLength.multu (rs rt : RegNum) : EncodedLength.Statement (.multu rs rt) := rfl
theorem EncodedLength.slt (rd rs rt : RegNum) : EncodedLength.Statement (.slt rd rs rt) := rfl
theorem EncodedLength.slti (rt rs : RegNum) (imm : Imm16) : EncodedLength.Statement (.slti rt rs imm) := rfl
theorem EncodedLength.sltiu (rt rs : RegNum) (imm : Imm16) : EncodedLength.Statement (.sltiu rt rs imm) := rfl
theorem EncodedLength.sltu (rd rs rt : RegNum) : EncodedLength.Statement (.sltu rd rs rt) := rfl
theorem EncodedLength.sub (rd rs rt : RegNum) : EncodedLength.Statement (.sub rd rs rt) := rfl
theorem EncodedLength.subu (rd rs rt : RegNum) : EncodedLength.Statement (.subu rd rs rt) := rfl
theorem EncodedLength.beq (rs rt : RegNum) (imm : Imm16) : EncodedLength.Statement (.beq rs rt imm) := rfl
theorem EncodedLength.bgez (rs : RegNum) (imm : Imm16) : EncodedLength.Statement (.bgez rs imm) := rfl
theorem EncodedLength.bgezal (rs : RegNum) (imm : Imm16) : EncodedLength.Statement (.bgezal rs imm) := rfl
theorem EncodedLength.bgtz (rs : RegNum) (imm : Imm16) : EncodedLength.Statement (.bgtz rs imm) := rfl
theorem EncodedLength.blez (rs : RegNum) (imm : Imm16) : EncodedLength.Statement (.blez rs imm) := rfl
theorem EncodedLength.bltz (rs : RegNum) (imm : Imm16) : EncodedLength.Statement (.bltz rs imm) := rfl
theorem EncodedLength.bltzal (rs : RegNum) (imm : Imm16) : EncodedLength.Statement (.bltzal rs imm) := rfl
theorem EncodedLength.bne (rs rt : RegNum) (imm : Imm16) : EncodedLength.Statement (.bne rs rt imm) := rfl
theorem EncodedLength.j (target : Target26) : EncodedLength.Statement (.j target) := rfl
theorem EncodedLength.jal (target : Target26) : EncodedLength.Statement (.jal target) := rfl
theorem EncodedLength.jalr (rd rs : RegNum) : EncodedLength.Statement (.jalr rd rs) := rfl
theorem EncodedLength.jr (rs : RegNum) : EncodedLength.Statement (.jr rs) := rfl
theorem EncodedLength.lb (rt rs : RegNum) (imm : Imm16) : EncodedLength.Statement (.lb rt rs imm) := rfl
theorem EncodedLength.lbu (rt rs : RegNum) (imm : Imm16) : EncodedLength.Statement (.lbu rt rs imm) := rfl
theorem EncodedLength.lh (rt rs : RegNum) (imm : Imm16) : EncodedLength.Statement (.lh rt rs imm) := rfl
theorem EncodedLength.lhu (rt rs : RegNum) (imm : Imm16) : EncodedLength.Statement (.lhu rt rs imm) := rfl
theorem EncodedLength.lui (rt : RegNum) (imm : Imm16) : EncodedLength.Statement (.lui rt imm) := rfl
theorem EncodedLength.lw (rt rs : RegNum) (imm : Imm16) : EncodedLength.Statement (.lw rt rs imm) := rfl
theorem EncodedLength.sb (rt rs : RegNum) (imm : Imm16) : EncodedLength.Statement (.sb rt rs imm) := rfl
theorem EncodedLength.sh (rt rs : RegNum) (imm : Imm16) : EncodedLength.Statement (.sh rt rs imm) := rfl
theorem EncodedLength.sw (rt rs : RegNum) (imm : Imm16) : EncodedLength.Statement (.sw rt rs imm) := rfl
theorem EncodedLength.and (rd rs rt : RegNum) : EncodedLength.Statement (.and rd rs rt) := rfl
theorem EncodedLength.andi (rt rs : RegNum) (imm : Imm16) : EncodedLength.Statement (.andi rt rs imm) := rfl
theorem EncodedLength.nor (rd rs rt : RegNum) : EncodedLength.Statement (.nor rd rs rt) := rfl
theorem EncodedLength.or (rd rs rt : RegNum) : EncodedLength.Statement (.or rd rs rt) := rfl
theorem EncodedLength.ori (rt rs : RegNum) (imm : Imm16) : EncodedLength.Statement (.ori rt rs imm) := rfl
theorem EncodedLength.xor (rd rs rt : RegNum) : EncodedLength.Statement (.xor rd rs rt) := rfl
theorem EncodedLength.xori (rt rs : RegNum) (imm : Imm16) : EncodedLength.Statement (.xori rt rs imm) := rfl
theorem EncodedLength.mfhi (rd : RegNum) : EncodedLength.Statement (.mfhi rd) := rfl
theorem EncodedLength.mflo (rd : RegNum) : EncodedLength.Statement (.mflo rd) := rfl
theorem EncodedLength.movn (rd rs rt : RegNum) : EncodedLength.Statement (.movn rd rs rt) := rfl
theorem EncodedLength.movz (rd rs rt : RegNum) : EncodedLength.Statement (.movz rd rs rt) := rfl
theorem EncodedLength.mthi (rs : RegNum) : EncodedLength.Statement (.mthi rs) := rfl
theorem EncodedLength.mtlo (rs : RegNum) : EncodedLength.Statement (.mtlo rs) := rfl
theorem EncodedLength.sll (rd rt : RegNum) (shamt : Shamt) : EncodedLength.Statement (.sll rd rt shamt) := rfl
theorem EncodedLength.sllv (rd rt rs : RegNum) : EncodedLength.Statement (.sllv rd rt rs) := rfl
theorem EncodedLength.sra (rd rt : RegNum) (shamt : Shamt) : EncodedLength.Statement (.sra rd rt shamt) := rfl
theorem EncodedLength.srav (rd rt rs : RegNum) : EncodedLength.Statement (.srav rd rt rs) := rfl
theorem EncodedLength.srl (rd rt : RegNum) (shamt : Shamt) : EncodedLength.Statement (.srl rd rt shamt) := rfl
theorem EncodedLength.srlv (rd rt rs : RegNum) : EncodedLength.Statement (.srlv rd rt rs) := rfl
theorem EncodedLength.brk (code : Code20) : EncodedLength.Statement (.brk code) := rfl
theorem EncodedLength.syscall (code : Code20) : EncodedLength.Statement (.syscall code) := rfl
theorem EncodedLength.teq (rs rt : RegNum) (code : Code10) : EncodedLength.Statement (.teq rs rt code) := rfl
theorem EncodedLength.teqi (rs : RegNum) (imm : Imm16) : EncodedLength.Statement (.teqi rs imm) := rfl
theorem EncodedLength.tge (rs rt : RegNum) (code : Code10) : EncodedLength.Statement (.tge rs rt code) := rfl
theorem EncodedLength.tgei (rs : RegNum) (imm : Imm16) : EncodedLength.Statement (.tgei rs imm) := rfl
theorem EncodedLength.tgeiu (rs : RegNum) (imm : Imm16) : EncodedLength.Statement (.tgeiu rs imm) := rfl
theorem EncodedLength.tgeu (rs rt : RegNum) (code : Code10) : EncodedLength.Statement (.tgeu rs rt code) := rfl
theorem EncodedLength.tlt (rs rt : RegNum) (code : Code10) : EncodedLength.Statement (.tlt rs rt code) := rfl
theorem EncodedLength.tlti (rs : RegNum) (imm : Imm16) : EncodedLength.Statement (.tlti rs imm) := rfl
theorem EncodedLength.tltiu (rs : RegNum) (imm : Imm16) : EncodedLength.Statement (.tltiu rs imm) := rfl
theorem EncodedLength.tltu (rs rt : RegNum) (code : Code10) : EncodedLength.Statement (.tltu rs rt code) := rfl
theorem EncodedLength.tne (rs rt : RegNum) (code : Code10) : EncodedLength.Statement (.tne rs rt code) := rfl
theorem EncodedLength.tnei (rs : RegNum) (imm : Imm16) : EncodedLength.Statement (.tnei rs imm) := rfl
theorem EncodedLength.nop : EncodedLength.Statement (.nop) := rfl
theorem EncodedLength.b (imm : Imm16) : EncodedLength.Statement (.b imm) := rfl
theorem EncodedLength.bal (imm : Imm16) : EncodedLength.Statement (.bal imm) := rfl
theorem EncodedLength.li (rd : RegNum) (imm32 : Word) : EncodedLength.Statement (.li rd imm32) := rfl
theorem EncodedLength.la (rd : RegNum) (imm32 : Word) : EncodedLength.Statement (.la rd imm32) := rfl

end Sys2Proof.Laws
end

