-- ==== Sys2Proof/Tests/Slice0.lean ====
section
/-! SUPPORT. Tests of single words and single steps, their values from 95_test_vectors.md, and for every statement
with hypotheses a witness that meets them. -/

namespace Sys2Proof.Slice0

open Sys2Proof.Machine

/-- A running machine at `pc` with the given Hi, Lo, registers and memory, and `w` as its next instruction. -/
def start (pc hi lo : Word) (regs : List (RegNum × Word)) (mem : Memory) (w : Nat) : State :=
  State.withFetchWord (regs.foldl (fun s p => s.setReg p.1 p.2) { State.reset with pc, hi, lo, mem }) 32 w

/-- What the state after the step satisfies. -/
def holdsAfter (o : Result) (p : State → Bool) : Bool :=
  match o with
  | .next t => p t
  | _ => false

/-- One step gives a state that satisfies `p`. -/
def gives (s : State) (p : State → Bool) : Bool := holdsAfter (step s) p

theorem eq_next_of_holdsAfter {o : Result} {u : State} (h : holdsAfter o (fun t => t == u) = true) : o = .next u := by
  cases o <;> simp_all [holdsAfter]

/-- The data bytes of 95_test_vectors.md 2.4. -/
def figures : Memory := [(0x2000, 0x80#8), (0x2001, 0x91#8), (0x2002, 0xA2#8), (0x2003, 0xF3#8)]

/-- The valid ranges of 95_test_vectors.md 2.12. -/
def someRanges : Params := { Params.default with validRegions := [
  { base := 0x1000, size := 0x1000, fetch := true, load := true, store := true },
  { base := 0x2000, size := 0x1000, fetch := false, load := true, store := true }] }

/-! ### Decoding: a word for every machine instruction (95_test_vectors.md 1.7) -/

theorem test_decode_arithmetic_first :
    decode 0x00430820#32 = .ok (.add 1#5 2#5 3#5) ∧
    decode 0x20410064#32 = .ok (.addi 1#5 2#5 100#16) ∧
    decode 0x24410064#32 = .ok (.addiu 1#5 2#5 100#16) ∧
    decode 0x00430821#32 = .ok (.addu 1#5 2#5 3#5) ∧
    decode 0x70410821#32 = .ok (.clo 1#5 2#5) ∧
    decode 0x70410820#32 = .ok (.clz 1#5 2#5) ∧
    decode 0x0043001A#32 = .ok (.div 2#5 3#5) ∧
    decode 0x0043001B#32 = .ok (.divu 2#5 3#5) ∧
    decode 0x70220000#32 = .ok (.madd 1#5 2#5) ∧
    decode 0x70220001#32 = .ok (.maddu 1#5 2#5) ∧
    decode 0x70220004#32 = .ok (.msub 1#5 2#5) := by decide

theorem test_decode_arithmetic_second :
    decode 0x70220005#32 = .ok (.msubu 1#5 2#5) ∧
    decode 0x70430802#32 = .ok (.mul 1#5 2#5 3#5) ∧
    decode 0x00430018#32 = .ok (.mult 2#5 3#5) ∧
    decode 0x00430019#32 = .ok (.multu 2#5 3#5) ∧
    decode 0x0043082A#32 = .ok (.slt 1#5 2#5 3#5) ∧
    decode 0x28410064#32 = .ok (.slti 1#5 2#5 100#16) ∧
    decode 0x2C410064#32 = .ok (.sltiu 1#5 2#5 100#16) ∧
    decode 0x0043082B#32 = .ok (.sltu 1#5 2#5 3#5) ∧
    decode 0x00430822#32 = .ok (.sub 1#5 2#5 3#5) ∧
    decode 0x00430823#32 = .ok (.subu 1#5 2#5 3#5) := by decide

theorem test_decode_branch_first :
    decode 0x10000064#32 = .ok (.b 100#16) ∧
    decode 0x04110064#32 = .ok (.bal 100#16) ∧
    decode 0x10220064#32 = .ok (.beq 1#5 2#5 100#16) ∧
    decode 0x07E10064#32 = .ok (.bgez 31#5 100#16) ∧
    decode 0x04310064#32 = .ok (.bgezal 1#5 100#16) ∧
    decode 0x1C200064#32 = .ok (.bgtz 1#5 100#16) ∧
    decode 0x18200064#32 = .ok (.blez 1#5 100#16) ∧
    decode 0x04200064#32 = .ok (.bltz 1#5 100#16) ∧
    decode 0x04300064#32 = .ok (.bltzal 1#5 100#16) ∧
    decode 0x14220064#32 = .ok (.bne 1#5 2#5 100#16) ∧
    decode 0x08000064#32 = .ok (.j 100#26) := by decide

theorem test_decode_branch_second :
    decode 0x0C000064#32 = .ok (.jal 100#26) ∧
    decode 0x0020F809#32 = .ok (.jalr 31#5 1#5) ∧
    decode 0x00200008#32 = .ok (.jr 1#5) := by decide

theorem test_decode_control :
    decode 0x00000000#32 = .ok .nop := by decide

theorem test_decode_load :
    decode 0x80410064#32 = .ok (.lb 1#5 2#5 100#16) ∧
    decode 0x90410064#32 = .ok (.lbu 1#5 2#5 100#16) ∧
    decode 0x84410064#32 = .ok (.lh 1#5 2#5 100#16) ∧
    decode 0x94410064#32 = .ok (.lhu 1#5 2#5 100#16) ∧
    decode 0x3C010064#32 = .ok (.lui 1#5 100#16) ∧
    decode 0x8C410064#32 = .ok (.lw 1#5 2#5 100#16) := by decide

theorem test_decode_store :
    decode 0xA0410064#32 = .ok (.sb 1#5 2#5 100#16) ∧
    decode 0xA4410064#32 = .ok (.sh 1#5 2#5 100#16) ∧
    decode 0xAC410064#32 = .ok (.sw 1#5 2#5 100#16) := by decide

theorem test_decode_logic :
    decode 0x00430824#32 = .ok (.and 1#5 2#5 3#5) ∧
    decode 0x30410064#32 = .ok (.andi 1#5 2#5 100#16) ∧
    decode 0x00430827#32 = .ok (.nor 1#5 2#5 3#5) ∧
    decode 0x00430825#32 = .ok (.or 1#5 2#5 3#5) ∧
    decode 0x34410064#32 = .ok (.ori 1#5 2#5 100#16) ∧
    decode 0x00430826#32 = .ok (.xor 1#5 2#5 3#5) ∧
    decode 0x38410064#32 = .ok (.xori 1#5 2#5 100#16) := by decide

theorem test_decode_copy :
    decode 0x00000810#32 = .ok (.mfhi 1#5) ∧
    decode 0x00000812#32 = .ok (.mflo 1#5) ∧
    decode 0x0043080B#32 = .ok (.movn 1#5 2#5 3#5) ∧
    decode 0x0043080A#32 = .ok (.movz 1#5 2#5 3#5) ∧
    decode 0x00200011#32 = .ok (.mthi 1#5) ∧
    decode 0x00200013#32 = .ok (.mtlo 1#5) := by decide

theorem test_decode_shift :
    decode 0x000208C0#32 = .ok (.sll 1#5 2#5 3#5) ∧
    decode 0x00620804#32 = .ok (.sllv 1#5 2#5 3#5) ∧
    decode 0x000208C3#32 = .ok (.sra 1#5 2#5 3#5) ∧
    decode 0x00620807#32 = .ok (.srav 1#5 2#5 3#5) ∧
    decode 0x000208C2#32 = .ok (.srl 1#5 2#5 3#5) ∧
    decode 0x00620806#32 = .ok (.srlv 1#5 2#5 3#5) := by decide

theorem test_decode_trap_first :
    decode 0x0000000D#32 = .ok (.brk 0#20) ∧
    decode 0x0000000C#32 = .ok (.syscall 0#20) ∧
    decode 0x00220034#32 = .ok (.teq 1#5 2#5 0#10) ∧
    decode 0x042C0064#32 = .ok (.teqi 1#5 100#16) ∧
    decode 0x00220030#32 = .ok (.tge 1#5 2#5 0#10) ∧
    decode 0x04280064#32 = .ok (.tgei 1#5 100#16) ∧
    decode 0x04290064#32 = .ok (.tgeiu 1#5 100#16) ∧
    decode 0x00220031#32 = .ok (.tgeu 1#5 2#5 0#10) ∧
    decode 0x00220032#32 = .ok (.tlt 1#5 2#5 0#10) ∧
    decode 0x042A0064#32 = .ok (.tlti 1#5 100#16) ∧
    decode 0x042B0064#32 = .ok (.tltiu 1#5 100#16) := by decide

theorem test_decode_trap_second :
    decode 0x00220033#32 = .ok (.tltu 1#5 2#5 0#10) ∧
    decode 0x00220036#32 = .ok (.tne 1#5 2#5 0#10) ∧
    decode 0x042E0064#32 = .ok (.tnei 1#5 100#16) := by decide

/-- One word of each format bit by bit, every field with a value of its own (30_encoding.md R81 to R83, R91). -/
theorem test_decode_fields :
    decode 0b00000010101110010110100000100010#32 = .ok (.sub 13#5 21#5 25#5) ∧
    decode 0b00000000000100101101110001000011#32 = .ok (.sra 27#5 18#5 17#5) ∧
    decode 0b10101110011110001000000000000001#32 = .ok (.sw 24#5 19#5 0x8001#16) ∧
    decode 0b00001110000000000000000000000001#32 = .ok (.jal 0x2000001#26) ∧
    decode 0b00000011100000000000000001001101#32 = .ok (.brk 0xE0001#20) ∧
    decode 0b00000010001100101000000001110110#32 = .ok (.tne 17#5 18#5 0x201#10) := by decide

/-- The two words of li and la (95_test_vectors.md 2.10). -/
theorem test_encode_pseudo :
    encode (.li 1#5 100000#32) = [0x3C010001#32, 0x342186A0#32] ∧
    encode (.la 4#5 0x2000#32) = [0x3C040000#32, 0x34842000#32] := by decide

/-- Reserved words (95_test_vectors.md 2.11), each refused by its name. -/
theorem test_reserved :
    decode 0xFFFFFFFF#32 = .error (.unassignedOp 63#6) ∧ decode 0x44000000#32 = .error (.unassignedOp 17#6) ∧
    decode 0x88410000#32 = .error (.unassignedOp 34#6) ∧ decode 0x00000001#32 = .error (.unassignedSpecial 1#6) ∧
    decode 0x00220035#32 = .error (.unassignedSpecial 53#6) ∧ decode 0x04020000#32 = .error (.unassignedRegimm 2#5) ∧
    decode 0x70000003#32 = .error (.unassignedSpecial2 3#6) ∧ decode 0x00430860#32 = .error .nonzeroUnusedField ∧
    decode 0x00200808#32 = .error .nonzeroUnusedField ∧ decode 0x3C210001#32 = .error .nonzeroUnusedField ∧
    decode 0x1C210000#32 = .error .nonzeroUnusedField ∧ decode 0x70410021#32 = .error .destinationMismatch ∧
    decode 0x70411820#32 = .error .destinationMismatch := by decide

theorem test_too_short : decodeBytes .little [0x20#8, 0x08#8, 0x43#8] = .error .tooShort := by decide

/-- The bytes of an instruction in memory (95_test_vectors.md 2.12). -/
theorem test_word_bytes :
    decodeBytes .little [0x20#8, 0x08#8, 0x43#8, 0x00#8, 0xAA#8] = .ok (.add 1#5 2#5 3#5, [0xAA#8]) ∧
    decodeBytes .big [0x00#8, 0x43#8, 0x08#8, 0x20#8] = .ok (.add 1#5 2#5 3#5, []) ∧
    wordBytes .little 0x00430820#32 = [0x20#8, 0x08#8, 0x43#8, 0x00#8] := by decide

theorem test_decode_table_word :
    decodeTableWord 32 0x00430820 = some (.add 1#5 2#5 3#5) ∧ decodeTableWord 32 0xFFFFFFFF = none ∧
    decodeTableWord 16 0xFFFF0000 = some .nop := by decide

/-- Well-formedness refuses each kind of ill-formed term: the two pseudo-instructions, and the special case of an
instruction that has a name of its own; its neighbours pass. -/
theorem test_wellFormed :
    (Instr.li 1#5 0#32).wellFormed = false ∧ (Instr.la 1#5 0#32).wellFormed = false ∧
    (Instr.sll 0#5 0#5 0#5).wellFormed = false ∧ (Instr.beq 0#5 0#5 4#16).wellFormed = false ∧
    (Instr.bgezal 0#5 4#16).wellFormed = false ∧
    (Instr.sll 0#5 0#5 1#5).wellFormed = true ∧ (Instr.beq 0#5 1#5 4#16).wellFormed = true ∧
    (Instr.bgezal 1#5 4#16).wellFormed = true ∧ Instr.nop.wellFormed = true := by decide

theorem test_registerName : registerName 0#5 = "$z0" ∧ registerName 29#5 = "$sp" ∧ registerName 31#5 = "$ra" := by decide

/-! ### One step of each instruction -/

/-! Arithmetic (95_test_vectors.md 2.1) -/

theorem test_add : gives (start 0x00001000#32 0x00000000#32 0x00000000#32 [(2#5, 0x00000001#32), (3#5, 0xFFFFFFFE#32)] [] 0x00430820)
    (fun t => t.reg 1#5 == 0xFFFFFFFF#32 && t.pc == 0x00001004#32) = true := by decide
theorem test_add_again : gives (start 0x00001000#32 0x00000000#32 0x00000000#32 [(2#5, 0x80000000#32), (3#5, 0xFFFFFFFF#32), (1#5, 0x00000055#32)] [] 0x00430820)
    (fun t => t.trap == some ⟨.integerOverflow, 0x00001000#32⟩ && t.pc == 0x00001000#32 && t.reg 1#5 == 0x00000055#32) = true := by decide
theorem test_addi : gives (start 0x00001000#32 0x00000000#32 0x00000000#32 [(2#5, 0xFFFFFF9C#32)] [] 0x20410064)
    (fun t => t.reg 1#5 == 0x00000000#32 && t.pc == 0x00001004#32) = true := by decide
theorem test_addi_again : gives (start 0x00001000#32 0x00000000#32 0x00000000#32 [(2#5, 0x80000000#32), (1#5, 0x00000055#32)] [] 0x2041FFFF)
    (fun t => t.trap == some ⟨.integerOverflow, 0x00001000#32⟩ && t.pc == 0x00001000#32 && t.reg 1#5 == 0x00000055#32) = true := by decide
theorem test_addiu : gives (start 0x00001000#32 0x00000000#32 0x00000000#32 [(2#5, 0x00000001#32)] [] 0x2441FFFF)
    (fun t => t.reg 1#5 == 0x00010000#32 && t.pc == 0x00001004#32) = true := by decide
theorem test_addu : gives (start 0x00001000#32 0x00000000#32 0x00000000#32 [(2#5, 0x7FFFFFFF#32), (3#5, 0x00000001#32)] [] 0x00430821)
    (fun t => t.reg 1#5 == 0x80000000#32 && t.pc == 0x00001004#32) = true := by decide
theorem test_sub : gives (start 0x00001000#32 0x00000000#32 0x00000000#32 [(2#5, 0x80000000#32), (3#5, 0x00000001#32), (1#5, 0x00000055#32)] [] 0x00430822)
    (fun t => t.trap == some ⟨.integerOverflow, 0x00001000#32⟩ && t.pc == 0x00001000#32 && t.reg 1#5 == 0x00000055#32) = true := by decide
theorem test_sub_again : gives (start 0x00001000#32 0x00000000#32 0x00000000#32 [(2#5, 0x00000005#32), (3#5, 0x00000007#32)] [] 0x00430822)
    (fun t => t.reg 1#5 == 0xFFFFFFFE#32 && t.pc == 0x00001004#32) = true := by decide
theorem test_subu : gives (start 0x00001000#32 0x00000000#32 0x00000000#32 [(2#5, 0x80000000#32), (3#5, 0x00000001#32)] [] 0x00430823)
    (fun t => t.reg 1#5 == 0x7FFFFFFF#32 && t.pc == 0x00001004#32) = true := by decide
theorem test_clo : gives (start 0x00001000#32 0x00000000#32 0x00000000#32 [(2#5, 0xF0FFFFFF#32)] [] 0x70410821)
    (fun t => t.reg 1#5 == 0x00000004#32 && t.pc == 0x00001004#32) = true := by decide
theorem test_clz : gives (start 0x00001000#32 0x00000000#32 0x00000000#32 [(2#5, 0x00000000#32)] [] 0x70410820)
    (fun t => t.reg 1#5 == 0x00000020#32 && t.pc == 0x00001004#32) = true := by decide
theorem test_clz_again : gives (start 0x00001000#32 0x00000000#32 0x00000000#32 [(2#5, 0x00010000#32)] [] 0x70410820)
    (fun t => t.reg 1#5 == 0x0000000F#32 && t.pc == 0x00001004#32) = true := by decide
theorem test_mult : gives (start 0x00001000#32 0x00000007#32 0x00000007#32 [(2#5, 0xFFFFFFFF#32), (3#5, 0xFFFFFFFF#32)] [] 0x00430018)
    (fun t => t.hi == 0x00000000#32 && t.lo == 0x00000001#32 && t.pc == 0x00001004#32) = true := by decide
theorem test_mult_again : gives (start 0x00001000#32 0x00000000#32 0x00000000#32 [(2#5, 0x80000000#32), (3#5, 0x80000000#32)] [] 0x00430018)
    (fun t => t.hi == 0x40000000#32 && t.lo == 0x00000000#32 && t.pc == 0x00001004#32) = true := by decide
theorem test_multu : gives (start 0x00001000#32 0x00000000#32 0x00000000#32 [(2#5, 0xFFFFFFFF#32), (3#5, 0xFFFFFFFF#32)] [] 0x00430019)
    (fun t => t.hi == 0xFFFFFFFE#32 && t.lo == 0x00000001#32 && t.pc == 0x00001004#32) = true := by decide
theorem test_mul : gives (start 0x00001000#32 0x00000011#32 0x00000022#32 [(2#5, 0xFFFFFFFE#32), (3#5, 0x00000003#32)] [] 0x70430802)
    (fun t => t.reg 1#5 == 0xFFFFFFFA#32 && t.hi == 0x00000011#32 && t.lo == 0x00000022#32 && t.pc == 0x00001004#32) = true := by decide
theorem test_div : gives (start 0x00001000#32 0x00000000#32 0x00000000#32 [(2#5, 0xFFFFFFF9#32), (3#5, 0x00000002#32)] [] 0x0043001A)
    (fun t => t.hi == 0xFFFFFFFF#32 && t.lo == 0xFFFFFFFD#32 && t.pc == 0x00001004#32) = true := by decide
theorem test_div_again : gives (start 0x00001000#32 0x00000005#32 0x00000005#32 [(2#5, 0x80000000#32), (3#5, 0xFFFFFFFF#32)] [] 0x0043001A)
    (fun t => t.hi == 0x00000000#32 && t.lo == 0x80000000#32 && t.pc == 0x00001004#32) = true := by decide
theorem test_divu : gives (start 0x00001000#32 0x00000000#32 0x00000000#32 [(2#5, 0xFFFFFFF9#32), (3#5, 0x00000002#32)] [] 0x0043001B)
    (fun t => t.hi == 0x00000001#32 && t.lo == 0x7FFFFFFC#32 && t.pc == 0x00001004#32) = true := by decide
theorem test_madd : gives (start 0x00001000#32 0x00000000#32 0x00000001#32 [(1#5, 0xFFFFFFFF#32), (2#5, 0x00000002#32)] [] 0x70220000)
    (fun t => t.hi == 0xFFFFFFFF#32 && t.lo == 0xFFFFFFFF#32 && t.pc == 0x00001004#32) = true := by decide
theorem test_maddu : gives (start 0x00001000#32 0x00000000#32 0x00000001#32 [(1#5, 0xFFFFFFFF#32), (2#5, 0x00000002#32)] [] 0x70220001)
    (fun t => t.hi == 0x00000001#32 && t.lo == 0xFFFFFFFF#32 && t.pc == 0x00001004#32) = true := by decide
theorem test_msub : gives (start 0x00001000#32 0x00000000#32 0x00000005#32 [(1#5, 0x00000003#32), (2#5, 0x00000004#32)] [] 0x70220004)
    (fun t => t.hi == 0xFFFFFFFF#32 && t.lo == 0xFFFFFFF9#32 && t.pc == 0x00001004#32) = true := by decide
theorem test_msubu : gives (start 0x00001000#32 0x00000002#32 0x00000000#32 [(1#5, 0xFFFFFFFF#32), (2#5, 0x00000002#32)] [] 0x70220005)
    (fun t => t.hi == 0x00000000#32 && t.lo == 0x00000002#32 && t.pc == 0x00001004#32) = true := by decide
theorem test_slt : gives (start 0x00001000#32 0x00000000#32 0x00000000#32 [(2#5, 0x80000000#32), (3#5, 0x7FFFFFFF#32)] [] 0x0043082A)
    (fun t => t.reg 1#5 == 0x00000001#32 && t.pc == 0x00001004#32) = true := by decide
theorem test_slti : gives (start 0x00001000#32 0x00000000#32 0x00000000#32 [(2#5, 0xFFFFFFFE#32)] [] 0x2841FFFF)
    (fun t => t.reg 1#5 == 0x00000001#32 && t.pc == 0x00001004#32) = true := by decide
theorem test_sltiu : gives (start 0x00001000#32 0x00000000#32 0x00000000#32 [(2#5, 0xFFFFFFFF#32), (1#5, 0x00000009#32)] [] 0x2C41FFFF)
    (fun t => t.reg 1#5 == 0x00000000#32 && t.pc == 0x00001004#32) = true := by decide
theorem test_sltu : gives (start 0x00001000#32 0x00000000#32 0x00000000#32 [(2#5, 0xFFFFFFFF#32), (3#5, 0x00000000#32), (1#5, 0x00000009#32)] [] 0x0043082B)
    (fun t => t.reg 1#5 == 0x00000000#32 && t.pc == 0x00001004#32) = true := by decide

/-! Branches and jumps (2.2) -/

theorem test_beq : gives (start 0x00001000#32 0x00000000#32 0x00000000#32 [(1#5, 0x00000000#32), (2#5, 0x00000000#32)] [] 0x10228000)
    (fun t => t.pc == 0xFFFE1004#32) = true := by decide
theorem test_bne : gives (start 0x00001000#32 0x00000000#32 0x00000000#32 [(1#5, 0x00000005#32), (2#5, 0x00000006#32)] [] 0x14220064)
    (fun t => t.pc == 0x00001194#32) = true := by decide
theorem test_b : gives (start 0x00001000#32 0x00000000#32 0x00000000#32 [] [] 0x1000FFFF)
    (fun t => t.pc == 0x00001000#32) = true := by decide
theorem test_bal : gives (start 0x00001000#32 0x00000000#32 0x00000000#32 [] [] 0x04110064)
    (fun t => t.reg 31#5 == 0x00001004#32 && t.pc == 0x00001194#32) = true := by decide
theorem test_bgez : gives (start 0x00001000#32 0x00000000#32 0x00000000#32 [(1#5, 0x80000000#32)] [] 0x04210064)
    (fun t => t.pc == 0x00001004#32) = true := by decide
theorem test_bgtz : gives (start 0x00001000#32 0x00000000#32 0x00000000#32 [(1#5, 0x00000000#32)] [] 0x1C200064)
    (fun t => t.pc == 0x00001004#32) = true := by decide
theorem test_blez : gives (start 0x00001000#32 0x00000000#32 0x00000000#32 [(1#5, 0x00000001#32)] [] 0x18200064)
    (fun t => t.pc == 0x00001004#32) = true := by decide
theorem test_bltz : gives (start 0x00001000#32 0x00000000#32 0x00000000#32 [(1#5, 0xFFFFFFFF#32)] [] 0x04200064)
    (fun t => t.pc == 0x00001194#32) = true := by decide
theorem test_bgezal : gives (start 0x00001000#32 0x00000000#32 0x00000000#32 [(31#5, 0x80000000#32)] [] 0x07F10064)
    (fun t => t.reg 31#5 == 0x00001004#32 && t.pc == 0x00001004#32) = true := by decide
theorem test_bltzal : gives (start 0x00001000#32 0x00000000#32 0x00000000#32 [(1#5, 0x00000000#32)] [] 0x04300064)
    (fun t => t.reg 31#5 == 0x00001004#32 && t.pc == 0x00001004#32) = true := by decide
theorem test_j : gives (start 0xAFFFFFFC#32 0x00000000#32 0x00000000#32 [] [] 0x08000064)
    (fun t => t.pc == 0xB0000190#32) = true := by decide
theorem test_jal : gives (start 0x10001000#32 0x00000000#32 0x00000000#32 [] [] 0x0C000064)
    (fun t => t.reg 31#5 == 0x10001004#32 && t.pc == 0x10000190#32) = true := by decide
theorem test_jr : gives (start 0x00001000#32 0x00000000#32 0x00000000#32 [(1#5, 0x00002002#32)] [] 0x00200008)
    (fun t => t.pc == 0x00002002#32) = true := by decide
theorem test_jalr : gives (start 0x00001000#32 0x00000000#32 0x00000000#32 [(1#5, 0x00002000#32)] [] 0x00200809)
    (fun t => t.reg 1#5 == 0x00001004#32 && t.pc == 0x00002000#32) = true := by decide
theorem test_jalr_again : gives (start 0x00001000#32 0x00000000#32 0x00000000#32 [(1#5, 0x00002000#32)] [] 0x00200009)
    (fun t => t.reg 0#5 == 0x00000000#32 && t.pc == 0x00002000#32) = true := by decide

/-! Control (2.3) -/

theorem test_nop : gives (start 0x00001000#32 0x00000000#32 0x00000000#32 [(1#5, 0x00000001#32)] [] 0x00000000)
    (fun t => t.reg 0#5 == 0x00000000#32 && t.pc == 0x00001004#32) = true := by decide

/-! Loads, little-endian, 80 91 A2 F3 at 0x2000 (2.4) -/

theorem test_lw : gives (start 0x00001000#32 0x00000000#32 0x00000000#32 [(2#5, 0x00002004#32)] figures 0x8C41FFFC)
    (fun t => t.reg 1#5 == 0xF3A29180#32 && t.pc == 0x00001004#32) = true := by decide
theorem test_lw_again : gives (start 0x00001000#32 0x00000000#32 0x00000000#32 [(2#5, 0x00002000#32), (1#5, 0x00000055#32)] figures 0x8C410002)
    (fun t => t.trap == some ⟨.addressError .load 0x00002002#32, 0x00001000#32⟩ && t.pc == 0x00001000#32 && t.reg 1#5 == 0x00000055#32) = true := by decide
theorem test_lh : gives (start 0x00001000#32 0x00000000#32 0x00000000#32 [(2#5, 0x00002000#32)] figures 0x84410000)
    (fun t => t.reg 1#5 == 0xFFFF9180#32 && t.pc == 0x00001004#32) = true := by decide
theorem test_lhu : gives (start 0x00001000#32 0x00000000#32 0x00000000#32 [(2#5, 0x00002000#32)] figures 0x94410002)
    (fun t => t.reg 1#5 == 0x0000F3A2#32 && t.pc == 0x00001004#32) = true := by decide
theorem test_lb : gives (start 0x00001000#32 0x00000000#32 0x00000000#32 [(2#5, 0x00002000#32)] figures 0x80410000)
    (fun t => t.reg 1#5 == 0xFFFFFF80#32 && t.pc == 0x00001004#32) = true := by decide
theorem test_lbu : gives (start 0x00001000#32 0x00000000#32 0x00000000#32 [(2#5, 0x00002000#32)] figures 0x90410003)
    (fun t => t.reg 1#5 == 0x000000F3#32 && t.pc == 0x00001004#32) = true := by decide
theorem test_lui : gives (start 0x00001000#32 0x00000000#32 0x00000000#32 [] figures 0x3C010064)
    (fun t => t.reg 1#5 == 0x00640000#32 && t.pc == 0x00001004#32) = true := by decide

/-! Stores, little-endian (2.5) -/

theorem test_sw : gives (start 0x00001000#32 0x00000000#32 0x00000000#32 [(1#5, 0x11223344#32), (2#5, 0x00002000#32)] [] 0xAC410000)
    (fun t => t.mem.readByte 0x2000 == 0x44#8 && t.mem.readByte 0x2001 == 0x33#8 && t.mem.readByte 0x2002 == 0x22#8 && t.mem.readByte 0x2003 == 0x11#8 && t.pc == 0x00001004#32) = true := by decide
theorem test_sw_again : gives (start 0x00001000#32 0x00000000#32 0x00000000#32 [(1#5, 0x11223344#32), (2#5, 0x00002000#32)] [] 0xAC410001)
    (fun t => t.trap == some ⟨.addressError .store 0x00002001#32, 0x00001000#32⟩ && t.pc == 0x00001000#32) = true := by decide
theorem test_sh : gives (start 0x00001000#32 0x00000000#32 0x00000000#32 [(1#5, 0x11223344#32), (2#5, 0x00002000#32)] [] 0xA4410002)
    (fun t => t.mem.readByte 0x2002 == 0x44#8 && t.mem.readByte 0x2003 == 0x33#8 && t.pc == 0x00001004#32) = true := by decide
theorem test_sb : gives (start 0x00001000#32 0x00000000#32 0x00000000#32 [(1#5, 0x000001FF#32), (2#5, 0x00002001#32)] [] 0xA041FFFF)
    (fun t => t.mem.readByte 0x2000 == 0xFF#8 && t.pc == 0x00001004#32) = true := by decide

/-! Logic (2.6) -/

theorem test_and : gives (start 0x00001000#32 0x00000000#32 0x00000000#32 [(2#5, 0xFF00FF00#32), (3#5, 0x0FF00FF0#32)] [] 0x00430824)
    (fun t => t.reg 1#5 == 0x0F000F00#32 && t.pc == 0x00001004#32) = true := by decide
theorem test_or : gives (start 0x00001000#32 0x00000000#32 0x00000000#32 [(2#5, 0xFF00FF00#32), (3#5, 0x0FF00FF0#32)] [] 0x00430825)
    (fun t => t.reg 1#5 == 0xFFF0FFF0#32 && t.pc == 0x00001004#32) = true := by decide
theorem test_xor : gives (start 0x00001000#32 0x00000000#32 0x00000000#32 [(2#5, 0xFF00FF00#32), (3#5, 0x0FF00FF0#32)] [] 0x00430826)
    (fun t => t.reg 1#5 == 0xF0F0F0F0#32 && t.pc == 0x00001004#32) = true := by decide
theorem test_nor : gives (start 0x00001000#32 0x00000000#32 0x00000000#32 [(2#5, 0xFF00FF00#32), (3#5, 0x0FF00FF0#32)] [] 0x00430827)
    (fun t => t.reg 1#5 == 0x000F000F#32 && t.pc == 0x00001004#32) = true := by decide
theorem test_andi : gives (start 0x00001000#32 0x00000000#32 0x00000000#32 [(2#5, 0x12345678#32)] [] 0x3041FFFF)
    (fun t => t.reg 1#5 == 0x00005678#32 && t.pc == 0x00001004#32) = true := by decide
theorem test_ori : gives (start 0x00001000#32 0x00000000#32 0x00000000#32 [(2#5, 0x12340000#32)] [] 0x34418000)
    (fun t => t.reg 1#5 == 0x12348000#32 && t.pc == 0x00001004#32) = true := by decide
theorem test_xori : gives (start 0x00001000#32 0x00000000#32 0x00000000#32 [(2#5, 0xFFFFFFFF#32)] [] 0x3841FFFF)
    (fun t => t.reg 1#5 == 0xFFFF0000#32 && t.pc == 0x00001004#32) = true := by decide

/-! Copies (2.7) -/

theorem test_mfhi : gives (start 0x00001000#32 0xDEADBEEF#32 0x00000001#32 [] [] 0x00000810)
    (fun t => t.reg 1#5 == 0xDEADBEEF#32 && t.pc == 0x00001004#32) = true := by decide
theorem test_mflo : gives (start 0x00001000#32 0x00000001#32 0xCAFEF00D#32 [] [] 0x00000812)
    (fun t => t.reg 1#5 == 0xCAFEF00D#32 && t.pc == 0x00001004#32) = true := by decide
theorem test_mthi : gives (start 0x00001000#32 0x00000000#32 0x00000009#32 [(1#5, 0x12345678#32)] [] 0x00200011)
    (fun t => t.hi == 0x12345678#32 && t.pc == 0x00001004#32) = true := by decide
theorem test_mtlo : gives (start 0x00001000#32 0x00000009#32 0x00000000#32 [(1#5, 0x12345678#32)] [] 0x00200013)
    (fun t => t.lo == 0x12345678#32 && t.pc == 0x00001004#32) = true := by decide
theorem test_movn : gives (start 0x00001000#32 0x00000000#32 0x00000000#32 [(1#5, 0x00000007#32), (2#5, 0x000000AA#32), (3#5, 0x00000001#32)] [] 0x0043080B)
    (fun t => t.reg 1#5 == 0x000000AA#32 && t.pc == 0x00001004#32) = true := by decide
theorem test_movn_again : gives (start 0x00001000#32 0x00000000#32 0x00000000#32 [(1#5, 0x00000007#32), (2#5, 0x000000AA#32), (3#5, 0x00000000#32)] [] 0x0043080B)
    (fun t => t.reg 1#5 == 0x00000007#32 && t.pc == 0x00001004#32) = true := by decide
theorem test_movz : gives (start 0x00001000#32 0x00000000#32 0x00000000#32 [(1#5, 0x00000007#32), (2#5, 0x000000AA#32), (3#5, 0x00000000#32)] [] 0x0043080A)
    (fun t => t.reg 1#5 == 0x000000AA#32 && t.pc == 0x00001004#32) = true := by decide
theorem test_movz_again : gives (start 0x00001000#32 0x00000000#32 0x00000000#32 [(1#5, 0x00000007#32), (2#5, 0x000000AA#32), (3#5, 0x80000000#32)] [] 0x0043080A)
    (fun t => t.reg 1#5 == 0x00000007#32 && t.pc == 0x00001004#32) = true := by decide

/-! Shifts (2.8) -/

theorem test_sll : gives (start 0x00001000#32 0x00000000#32 0x00000000#32 [(2#5, 0xF0000001#32)] [] 0x000208C0)
    (fun t => t.reg 1#5 == 0x80000008#32 && t.pc == 0x00001004#32) = true := by decide
theorem test_srl : gives (start 0x00001000#32 0x00000000#32 0x00000000#32 [(2#5, 0xF0000001#32)] [] 0x000208C2)
    (fun t => t.reg 1#5 == 0x1E000000#32 && t.pc == 0x00001004#32) = true := by decide
theorem test_sra : gives (start 0x00001000#32 0x00000000#32 0x00000000#32 [(2#5, 0xF0000001#32)] [] 0x000208C3)
    (fun t => t.reg 1#5 == 0xFE000000#32 && t.pc == 0x00001004#32) = true := by decide
theorem test_sra_again : gives (start 0x00001000#32 0x00000000#32 0x00000000#32 [(2#5, 0x70000001#32)] [] 0x000208C3)
    (fun t => t.reg 1#5 == 0x0E000000#32 && t.pc == 0x00001004#32) = true := by decide
theorem test_sllv : gives (start 0x00001000#32 0x00000000#32 0x00000000#32 [(2#5, 0x00000001#32), (3#5, 0x00000021#32)] [] 0x00620804)
    (fun t => t.reg 1#5 == 0x00000002#32 && t.pc == 0x00001004#32) = true := by decide
theorem test_srlv : gives (start 0x00001000#32 0x00000000#32 0x00000000#32 [(2#5, 0x80000000#32), (3#5, 0xFFFFFFFF#32)] [] 0x00620806)
    (fun t => t.reg 1#5 == 0x00000001#32 && t.pc == 0x00001004#32) = true := by decide
theorem test_srav : gives (start 0x00001000#32 0x00000000#32 0x00000000#32 [(2#5, 0x80000000#32), (3#5, 0x00000024#32)] [] 0x00620807)
    (fun t => t.reg 1#5 == 0xF8000000#32 && t.pc == 0x00001004#32) = true := by decide

/-! Software exceptions (2.9) -/

theorem test_break : gives (start 0x00001000#32 0x00000000#32 0x00000000#32 [] [] 0x0048D14D)
    (fun t => t.trap == some ⟨.breakpoint 74565#20, 0x00001000#32⟩ && t.pc == 0x00001000#32) = true := by decide
theorem test_syscall : gives (start 0x00001000#32 0x00000000#32 0x00000000#32 [] [] 0x03FFFFCC)
    (fun t => t.trap == some ⟨.syscall 1048575#20, 0x00001000#32⟩ && t.pc == 0x00001000#32) = true := by decide
theorem test_teq : gives (start 0x00001000#32 0x00000000#32 0x00000000#32 [(1#5, 0x00000005#32), (2#5, 0x00000005#32)] [] 0x0022FFF4)
    (fun t => t.trap == some ⟨.trap (some 1023#10), 0x00001000#32⟩ && t.pc == 0x00001000#32) = true := by decide
theorem test_tne : gives (start 0x00001000#32 0x00000000#32 0x00000000#32 [(1#5, 0x00000005#32), (2#5, 0x00000006#32)] [] 0x00220036)
    (fun t => t.trap == some ⟨.trap (some 0#10), 0x00001000#32⟩ && t.pc == 0x00001000#32) = true := by decide
theorem test_tge : gives (start 0x00001000#32 0x00000000#32 0x00000000#32 [(1#5, 0x00000000#32), (2#5, 0x00000000#32)] [] 0x00220030)
    (fun t => t.trap == some ⟨.trap (some 0#10), 0x00001000#32⟩ && t.pc == 0x00001000#32) = true := by decide
theorem test_tgeu : gives (start 0x00001000#32 0x00000000#32 0x00000000#32 [(1#5, 0x80000000#32), (2#5, 0x00000000#32)] [] 0x00220031)
    (fun t => t.trap == some ⟨.trap (some 0#10), 0x00001000#32⟩ && t.pc == 0x00001000#32) = true := by decide
theorem test_tlt : gives (start 0x00001000#32 0x00000000#32 0x00000000#32 [(1#5, 0x80000000#32), (2#5, 0x00000000#32)] [] 0x00220032)
    (fun t => t.trap == some ⟨.trap (some 0#10), 0x00001000#32⟩ && t.pc == 0x00001000#32) = true := by decide
theorem test_tltu : gives (start 0x00001000#32 0x00000000#32 0x00000000#32 [(1#5, 0x80000000#32), (2#5, 0x00000000#32)] [] 0x00220033)
    (fun t => t.trap == none && t.pc == 0x00001004#32) = true := by decide
theorem test_teqi : gives (start 0x00001000#32 0x00000000#32 0x00000000#32 [(1#5, 0xFFFFFFFF#32)] [] 0x042CFFFF)
    (fun t => t.trap == some ⟨.trap none, 0x00001000#32⟩ && t.pc == 0x00001000#32) = true := by decide
theorem test_tnei : gives (start 0x00001000#32 0x00000000#32 0x00000000#32 [(1#5, 0x00000065#32)] [] 0x042E0064)
    (fun t => t.trap == some ⟨.trap none, 0x00001000#32⟩ && t.pc == 0x00001000#32) = true := by decide
theorem test_tgei : gives (start 0x00001000#32 0x00000000#32 0x00000000#32 [(1#5, 0x00000000#32)] [] 0x0428FFFF)
    (fun t => t.trap == some ⟨.trap none, 0x00001000#32⟩ && t.pc == 0x00001000#32) = true := by decide
theorem test_tgeiu : gives (start 0x00001000#32 0x00000000#32 0x00000000#32 [(1#5, 0xFFFFFFFF#32)] [] 0x0429FFFF)
    (fun t => t.trap == some ⟨.trap none, 0x00001000#32⟩ && t.pc == 0x00001000#32) = true := by decide
theorem test_tlti : gives (start 0x00001000#32 0x00000000#32 0x00000000#32 [(1#5, 0xFFFFFFFE#32)] [] 0x042AFFFF)
    (fun t => t.trap == some ⟨.trap none, 0x00001000#32⟩ && t.pc == 0x00001000#32) = true := by decide
theorem test_tltiu : gives (start 0x00001000#32 0x00000000#32 0x00000000#32 [(1#5, 0xFFFFFFFF#32)] [] 0x042BFFFF)
    (fun t => t.trap == none && t.pc == 0x00001004#32) = true := by decide

/-! Pseudo-instructions (2.10) -/

theorem test_li : holdsAfter (exec (.li 1#5 0xFFFFFFFF#32) { State.reset with pc := 0x1000#32 })
    (fun t => t.reg 1#5 == 0xFFFFFFFF#32 && t.pc == 0x1008#32) = true := by decide
theorem test_la : holdsAfter (exec (.la 0#5 5#32) { State.reset with pc := 0x1000#32 }) (fun t => t.reg 0#5 == 0#32 && t.pc == 0x1008#32) = true := by
  decide

/-! ### The step, the launch, the handler -/

theorem test_fetch_not_valid : holdsAfter (step { State.reset with pc := 0x2000#32, params := someRanges })
    (fun t => t.trap == some ⟨.addressError .fetch 0x2000#32, 0x2000#32⟩) = true := by decide

theorem test_fetch_reserved : gives (start 0x1000#32 0#32 0#32 [] [] 0x00430860)
    (fun t => t.trap == some ⟨.reservedInstruction 0x00430860#32, 0x1000#32⟩ && t.pc == 0x1000#32) = true := by decide

theorem test_pc_wraps : gives (start 0xFFFFFFFC#32 0#32 0#32 [] [] 0) (fun t => t.pc == 0#32) = true := by decide

/-- withFetchWord lays the word at the pc, also from a stopped, misaligned, big-endian machine with no valid byte. -/
theorem test_withFetchWord :
    let s := { State.reset with pc := 0x1002#32, trap := some ⟨.integerOverflow, 0#32⟩,
                                params := { Params.default with endian := .big, validRegions := [] } }
    gives (s.withFetchWord 32 0x24010005) (fun t => t.reg 1#5 == 5#32 && t.pc == 0x1004#32) = true := by decide

/-- The example handler goes on after the exception (60_exceptions.md R262). -/
theorem test_handler_resumes :
    let s := { State.reset with pc := 0x1000#32, trap := some ⟨.syscall 0#20, 0x1000#32⟩ }
    holdsAfter (stepWith (some (resumeAfter fun service u => u.setReg 2#5 service)) (s.setReg 3#5 7#32))
      (fun t => t.trap == none && t.pc == 0x1004#32 && t.reg 2#5 == 7#32) = true := by decide

/-- Without declared ranges the image alone is valid (70_reset_and_hazards.md R291). -/
theorem test_default_ranges :
    let p := { Params.default with validRegions := defaultValidRegions [(0x1000, 0#8)] [(0x2000, 4)] }
    memValid p 0x1000 1 .fetch = true ∧ memValid p 0x1000 2 .load = false ∧ memValid p 0x2000 4 .store = true := by
  decide

/-! ### Witnesses: concrete values that meet the hypotheses of each statement -/

/-- `addi $1, $2, 1` about to run. -/
def addiAhead : State := start 0x1000#32 0#32 0#32 [(2#5, 6#32)] [] 0x20410001
/-- `break` about to run. -/
def breakAhead : State := start 0x1000#32 0#32 0#32 [] [] 0x0000000D
/-- `sw $1, 0($2)` at 0x1000, the word 0x20020007 in $1 and its own successor's address in $2
(95_test_vectors.md P4). -/
def storeAhead : State := start 0x1000#32 0#32 0#32 [(1#5, 0x20020007#32), (2#5, 0x1004#32)] [] 0xAC410000

theorem witness_DecodeInvertsEncode :
    (Instr.add 1#5 2#5 3#5).wellFormed = true ∧ (Instr.b 0xFFFF#16).wellFormed = true := by decide
theorem witness_EncodeInvertsDecode : decode 0x00430820#32 = .ok (.add 1#5 2#5 3#5) := by decide
theorem witness_SpellingsNameTheSameInstruction :
    (Instr.sll 0#5 0#5 0#5).isPseudo = false ∧ (Instr.sll 0#5 0#5 0#5).canonical = .nop := by decide
theorem witness_DecoderFollowsTheOpcodeTable : decode 0x00000000#32 = .ok .nop := by decide
theorem witness_LabelFieldsReachTheirLabel_branch :
    (0xFFFE1004#32 : Word) = 0x1000#32 + 4#32 + BitVec.ofInt 32 (4 * (-32768)) ∧
    (0x00021000#32 : Word) = 0x1000#32 + 4#32 + BitVec.ofInt 32 (4 * 32767) := by decide
theorem witness_LabelFieldsReachTheirLabel_jump :
    (0xB0000190#32 : Word).toNat % 4 = 0 ∧
    (0xB0000190#32 : Word).toNat / 268435456 = (0xAFFFFFFC#32 + 4#32 : Word).toNat / 268435456 := by decide
theorem witness_StepRunsTheDecodedInstruction :
    addiAhead.trap = none ∧ addiAhead.pc.toNat % 4 = 0 ∧ memValid addiAhead.params addiAhead.pc.toNat 4 .fetch = true ∧
    decode (addiAhead.valueAt .word addiAhead.pc) = .ok (.addi 1#5 2#5 1#16) := by decide
theorem witness_BadFetchRaisesAddressError :
    (0x1002#32 : Word).toNat % 4 ≠ 0 ∧ memValid someRanges 0x2000 4 .fetch = false ∧
    memValid someRanges 0x1FFC 4 .fetch = true ∧ State.reset.trap = none := by decide
theorem witness_ReservedWordRaises :
    let s := start 0x1000#32 0#32 0#32 [] [] 0x70410021
    s.trap = none ∧ s.pc.toNat % 4 = 0 ∧ memValid s.params s.pc.toNat 4 .fetch = true ∧
    s.valueAt .word s.pc = 0x70410021#32 ∧
    ∀ r ∈ opcodeRows, ¬ (r.selects 0x70410021#32 = true ∧ r.condition 0x70410021#32 = true) := by decide
theorem witness_EndedRunStopsUnlessAHandlerGoesOn :
    ({ State.reset with trap := some ⟨.breakpoint 0#20, 0#32⟩ } : State).trap = some ⟨.breakpoint 0#20, 0#32⟩ ∧
    State.reset.trap = none := by decide
theorem witness_PlacedWordIsTheNextInstruction : (0xFFFFFFFC#32 : Word).toNat % 4 = 0 := by decide
theorem witness_RunningMachineAlwaysSteps : State.reset.trap = none := rfl
theorem witness_ExceptionsArePrecise :
    step breakAhead = .next (breakAhead.raised (.breakpoint 0#20)) ∧ (breakAhead.raised (.breakpoint 0#20)).trap ≠ none :=
  ⟨eq_next_of_holdsAfter (by decide), by decide⟩
theorem witness_OnlyListedExceptionsAreRaised :
    breakAhead.trap = none ∧ exec (.brk 5#20) breakAhead = .next (breakAhead.raised (.breakpoint 5#20)) ∧
    (breakAhead.raised (.breakpoint 5#20)).trap = some ⟨.breakpoint 5#20, 0x1000#32⟩ :=
  ⟨by decide, rfl, by decide⟩
theorem witness_EveryStepKeepsTheStateInvariant :
    storeAhead.Inv ∧ step storeAhead = .next (storeAhead.storeAt .word 0x1004#32 0x20020007#32).advance :=
  ⟨⟨by decide, by decide⟩, eq_next_of_holdsAfter (by decide)⟩
/-- A launch whose image lists an address twice, at the top of the space. -/
def twiceListed : Launch where
  params := Params.default
  image := [(0xFFFFFFFF, 1#8), (0, 2#8), (0xFFFFFFFF, 3#8), (4, 4#8)]
  resetPc := 0x1000#32
  regs := Vector.replicate 32 9#32
  hi := 1#32
  lo := 2#32
theorem witness_ResetAndLaunchMeetTheStateInvariant : ∀ c ∈ twiceListed.image, c.1 < 4294967296 := by decide
theorem witness_LaunchStateIsAsSupplied :
    twiceListed.image = [(0xFFFFFFFF, 1#8), (0, 2#8)] ++ (0xFFFFFFFF, 3#8) :: [(4, 4#8)] ∧
    ∀ c ∈ ([(4, 4#8)] : List Host.Cell), c.1 ≠ 0xFFFFFFFF := by decide
theorem witness_ParametersHoldForAWholeRun : ∃ t, step addiAhead = .next t :=
  ⟨_, eq_next_of_holdsAfter (u := (addiAhead.setReg 1#5 7#32).advance) (by decide)⟩
theorem witness_OnlyLoadsReadAndOnlyStoresWriteMemory :
    isStore (.lb 1#5 2#5 0#16) = false ∧ isMemoryLoad (.sb 1#5 2#5 0#16) = false ∧
    (∃ t, exec (.lb 1#5 2#5 0#16) addiAhead = .next t) ∧
    exec (.sb 1#5 2#5 0#16) storeAhead = .next (storeAhead.storeAt .byte 0x1004#32 0x20020007#32).advance :=
  ⟨rfl, rfl, ⟨_, eq_next_of_holdsAfter (u := (addiAhead.setReg 1#5 0#32).advance) (by decide)⟩,
    eq_next_of_holdsAfter (by decide)⟩
theorem witness_OnlyListedInstructionsWriteHiAndLo :
    addiAhead.params.mulHiLo = .unchanged ∧ writesHiOrLo (.mul 1#5 2#5 2#5) = false ∧
    exec (.mul 1#5 2#5 2#5) addiAhead = .next (addiAhead.setReg 1#5 36#32).advance :=
  ⟨rfl, rfl, eq_next_of_holdsAfter (by decide)⟩
theorem witness_OtherInstructionsGoOnAtTheNextWord :
    isTransfer (.brk 0#20) = false ∧ (Instr.brk 0#20).isPseudo = false ∧ breakAhead.trap = none ∧
    exec (.brk 0#20) breakAhead = .next (breakAhead.raised (.breakpoint 0#20)) ∧
    isTransfer (.mfhi 1#5) = false ∧ (Instr.mfhi 1#5).isPseudo = false ∧
    exec (.mfhi 1#5) breakAhead = .next (breakAhead.setReg 1#5 breakAhead.hi).advance :=
  ⟨rfl, rfl, rfl, rfl, rfl, rfl, rfl⟩
theorem witness_OnlyRegisterJumpsMisalignPc :
    isRegisterJump (.j 0x3FFFFFF#26) = false ∧ breakAhead.pc.toNat % 4 = 0 ∧
    exec (.j 0x3FFFFFF#26) breakAhead = .next (breakAhead.goto 0x0FFFFFFC#32) :=
  ⟨rfl, by decide, eq_next_of_holdsAfter (by decide)⟩
theorem witness_UnsignedDivisionQuotientAndRemainder : addiAhead.reg 2#5 ≠ 0#32 := by decide
theorem witness_SignedDivisionTruncatesTowardZero :
    let s := (State.reset.setReg 1#5 0x80000000#32).setReg 2#5 0xFFFFFFFF#32
    s.reg 2#5 ≠ 0#32 ∧ (s.reg 1#5).toInt = -2147483648 ∧ (s.reg 2#5).toInt = -1 ∧ (s.reg 2#5).toInt ≠ -2147483648 := by
  decide
theorem witness_DivisionByZeroCompletes : addiAhead.reg 0#5 = 0#32 ∧ addiAhead.reg 3#5 = 0#32 := by decide
theorem witness_LoadsReadTheirBytes :
    let at' := fun a : Word => (State.reset.setReg 2#5 a).reg 2#5 + (0#16).signExtend 32
    memValid Params.default (at' 0xFFFFFFFF#32).toNat 1 .load = true ∧
    (at' 0xFFFFFFFE#32).toNat % 2 = 0 ∧ memValid Params.default (at' 0xFFFFFFFE#32).toNat 2 .load = true ∧
    (at' 0xFFFFFFFC#32).toNat % 4 = 0 ∧ memValid Params.default (at' 0xFFFFFFFC#32).toNat 4 .load = true := by decide
theorem witness_BadLoadsRaiseAddressError :
    let ea := fun imm : Imm16 => (State.reset.setReg 2#5 0x3000#32).reg 2#5 + imm.signExtend 32
    memValid someRanges (ea 0#16).toNat 1 .load = false ∧ memValid someRanges (ea 0xFFFF#16).toNat 1 .load = true ∧
    (ea 0xFFFF#16).toNat % 2 ≠ 0 ∧ memValid someRanges (ea 0#16).toNat 2 .load = false ∧
    (ea 0xFFFE#16).toNat % 4 ≠ 0 ∧ memValid someRanges (ea 0#16).toNat 4 .load = false := by decide
theorem witness_StoresWriteExactlyTheirBytes :
    let at' := fun a : Word => (State.reset.setReg 2#5 a).reg 2#5 + (0#16).signExtend 32
    memValid Params.default (at' 0xFFFFFFFF#32).toNat 1 .store = true ∧
    (at' 0xFFFFFFFE#32).toNat % 2 = 0 ∧ memValid Params.default (at' 0xFFFFFFFE#32).toNat 2 .store = true ∧
    (at' 0xFFFFFFFC#32).toNat % 4 = 0 ∧ memValid Params.default (at' 0xFFFFFFFC#32).toNat 4 .store = true := by decide
theorem witness_BadStoresRaiseAddressError :
    let ea := fun imm : Imm16 => (State.reset.setReg 2#5 0x3000#32).reg 2#5 + imm.signExtend 32
    memValid someRanges (ea 0#16).toNat 1 .store = false ∧ memValid someRanges (ea 0xFFFF#16).toNat 1 .store = true ∧
    (ea 0xFFFF#16).toNat % 2 ≠ 0 ∧ memValid someRanges (ea 0#16).toNat 2 .store = false ∧
    (ea 0xFFFE#16).toNat % 4 ≠ 0 ∧ memValid someRanges (ea 0#16).toNat 4 .store = false := by decide
theorem witness_StoredWordIsFetched :
    storeAhead.reg 2#5 + (0#16).signExtend 32 = storeAhead.pc + 4#32 ∧ storeAhead.pc.toNat % 4 = 0 ∧
    storeAhead.trap = none ∧ memValid storeAhead.params (storeAhead.pc + 4#32).toNat 4 .store = true ∧
    memValid storeAhead.params (storeAhead.pc + 4#32).toNat 4 .fetch = true ∧
    exec (.sw 1#5 2#5 0#16) storeAhead = .next (storeAhead.storeAt .word 0x1004#32 0x20020007#32).advance ∧
    decode (storeAhead.reg 1#5) = .ok (.addi 2#5 0#5 7#16) :=
  ⟨by decide, by decide, by decide, by decide, by decide, eq_next_of_holdsAfter (by decide), by decide⟩
theorem witness_RegisterTrapsCompareAndRaise :
    let s := (State.reset.setReg 1#5 0x80000000#32).setReg 2#5 0x7FFFFFFF#32
    (s.reg 1#5).toInt < (s.reg 2#5).toInt ∧ ¬ ((s.reg 1#5).toNat < (s.reg 2#5).toNat) ∧ s.reg 1#5 ≠ s.reg 2#5 ∧
    s.reg 3#5 = s.reg 4#5 := by decide
theorem witness_ImmediateTrapsCompareAndRaise :
    let s := State.reset.setReg 1#5 0xFFFFFFFF#32
    (s.reg 1#5).toInt = (0xFFFF#16).toInt ∧ (s.reg 1#5).toInt < (0#16).toInt ∧ (s.reg 1#5).toInt ≥ (0x8000#16).toInt ∧
    (s.reg 1#5).toNat ≥ (0xFFFF#16).toNat ∧ ¬ ((s.reg 1#5).toNat < (0xFFFF#16).toNat) ∧
    (s.reg 1#5).toInt ≠ (0x7FFF#16).toInt := by decide
theorem witness_LoadImmediateIsLuiThenOri :
    (Instr.li 1#5 0x00008000#32 = .li 1#5 0x00008000#32 ∨ Instr.li 1#5 0x00008000#32 = .la 1#5 0x00008000#32) ∧
    holdsAfter (exec (.li 1#5 0x00008000#32) State.reset) (fun t => t.reg 1#5 == 0x8000#32 && t.pc == 8#32) = true := by
  decide

end Sys2Proof.Slice0
end

section
/-! Memory and the instructions (20_memory.md R52): what each shape of a meaning does when the memory is exchanged. A
meaning that commutes with the exchange neither reads memory nor writes it. -/

namespace Sys2Proof.Machine

/-! ### Exchanging the memory -/

/-- The state with another memory. -/
def State.withMem (s : State) (m : Memory) : State := { s with mem := m }

section
variable (s : State) (m : Memory)

@[simp] theorem State.withMem_mem : (s.withMem m).mem = m := rfl
@[simp] theorem State.withMem_reg (r : RegNum) : (s.withMem m).reg r = s.reg r := rfl
@[simp] theorem State.withMem_params : (s.withMem m).params = s.params := rfl
@[simp] theorem State.withMem_self : s.withMem s.mem = s := rfl

end

/-- An answer with another memory in its next state. -/
def resultWithMem (m : Memory) : Result → Result
  | .next t => .next (t.withMem m)
  | .fault r => .fault r
  | .refused r => .refused r

@[simp] theorem resultWithMem_next (m : Memory) (t : State) : resultWithMem m (.next t) = .next (t.withMem m) := rfl

/-- The checks of an access do not look at the contents of memory (20_memory.md R54). -/
@[simp] theorem accessError_withMem (s : State) (m : Memory) (access : Access) (w : Width) (a : Word) :
    accessError (s.withMem m) access w a = accessError s access w a := rfl

/-! ### The shapes that commute with the exchange -/

section
variable {s : State} {m : Memory}

theorem raise_withMem (c : Cause) : raise c (s.withMem m) = resultWithMem m (raise c s) := rfl

theorem writeBack_withMem (rd : RegNum) (v : Word) :
    writeBack rd v (s.withMem m) = resultWithMem m (writeBack rd v s) := rfl

theorem writeHiLo_withMem (v : HiLo) : writeHiLo v (s.withMem m) = resultWithMem m (writeHiLo v s) := rfl

theorem writeDword_withMem (v : Dword) : writeDword v (s.withMem m) = resultWithMem m (writeDword v s) := rfl

theorem anyHiLo_withMem : anyHiLo (s.withMem m) = resultWithMem m (anyHiLo s) := rfl

theorem branchIf_withMem (c : Bool) (imm : Imm16) :
    branchIf c imm (s.withMem m) = resultWithMem m (branchIf c imm s) := rfl

theorem branchLinkIf_withMem (c : Bool) (imm : Imm16) :
    branchLinkIf c imm (s.withMem m) = resultWithMem m (branchLinkIf c imm s) := rfl

/-- A choice whose condition does not depend on memory commutes with the exchange when both its branches do. -/
theorem ite_withMem {c : Prop} [Decidable c] {x y x' y' : Result} (hx : x' = resultWithMem m x)
    (hy : y' = resultWithMem m y) : (if c then x' else y') = resultWithMem m (if c then x else y) := by
  rw [hx, hy, apply_ite (resultWithMem m)]

theorem trapIf_withMem (c : Bool) (code : Option Code10) :
    trapIf c code (s.withMem m) = resultWithMem m (trapIf c code s) :=
  ite_withMem (raise_withMem _) rfl

/-- `mul` commutes with the exchange for either value of `MUL_HILO` (40_arithmetic.md R127). -/
theorem execMul_withMem (rd rs rt : RegNum) :
    execMul rd rs rt (s.withMem m) = resultWithMem m (execMul rd rs rt s) := by
  unfold execMul
  rw [State.withMem_params]
  cases s.params.mulHiLo <;> rfl

end

/-- An instruction that is no load and no store commutes with the exchange of memory: each is of a shape that does, on
operands that do not depend on memory (20_memory.md R52). -/
theorem exec_withMem {i : Instr} (s : State) (m : Memory) (hload : isMemoryLoad i = false)
    (hstore : isStore i = false) : exec i (s.withMem m) = resultWithMem m (exec i s) := by
  cases i with
  | lb | lbu | lh | lhu | lw => cases hload
  | sb | sh | sw => cases hstore
  | addiu | addu | clo | clz | slt | slti | sltiu | sltu | subu | lui | and | andi | nor | or | ori | xor | xori
  | mfhi | mflo | sll | sllv | sra | srav | srl | srlv => exact writeBack_withMem _ _
  | mthi | mtlo => exact writeHiLo_withMem _
  | madd | maddu | msub | msubu | mult | multu => exact writeDword_withMem _
  | beq | bgez | bgtz | blez | bltz | bne | b => exact branchIf_withMem _ _
  | bgezal | bltzal | bal => exact branchLinkIf_withMem _ _
  | teq | teqi | tge | tgei | tgeiu | tgeu | tlt | tlti | tltiu | tltu | tne | tnei => exact trapIf_withMem _ _
  | brk | syscall => exact raise_withMem _
  | j | jal | jalr | jr | nop | li | la => rfl
  | add | addi | sub => exact ite_withMem (raise_withMem _) (writeBack_withMem _ _)
  | movn | movz => exact ite_withMem (writeBack_withMem _ _) rfl
  | divu => exact ite_withMem anyHiLo_withMem (writeHiLo_withMem _)
  | div => exact ite_withMem anyHiLo_withMem (ite_withMem (writeHiLo_withMem _) (writeHiLo_withMem _))
  | mul => exact execMul_withMem _ _ _

/-! ### Loads and stores -/

/-- A load leaves memory as it is (43_load.md R170). -/
theorem loadInto_mem {w : Width} {extend : Word → Word} {rt rs : RegNum} {imm : Imm16} {s t : State}
    (h : loadInto w extend rt rs imm s = .next t) : t.mem = s.mem := by
  obtain ⟨_, e⟩ | ⟨_, e⟩ := loadInto_cases w extend rt rs imm s <;> cases e.symm.trans h <;> rfl

/-- A store's checks and its next state do not depend on memory, but for the memory of that state (44_store.md R180). -/
theorem storeFrom_withMem {w : Width} {rt rs : RegNum} {imm : Imm16} {s t : State} (m : Memory)
    (h : storeFrom w rt rs imm s = .next t) :
    ∃ m', storeFrom w rt rs imm (s.withMem m) = .next (t.withMem m') := by
  have hother := storeFrom_cases w rt rs imm (s.withMem m)
  obtain ⟨hs, es⟩ | ⟨hs, es⟩ := storeFrom_cases w rt rs imm s
  · obtain ⟨_, em⟩ | ⟨hm, _⟩ := hother
    · cases es.symm.trans h
      exact ⟨_, em⟩
    · simp [hs] at hm
  · obtain ⟨hm, _⟩ | ⟨_, em⟩ := hother
    · simp [hs] at hm
    · cases es.symm.trans h
      exact ⟨m, em⟩

/-! ### The statement's two halves -/

/-- An instruction that commutes with the exchange keeps the memory, seen by exchanging it for itself; a load keeps it
because it writes its register alone (20_memory.md R52). -/
theorem exec_mem_of_not_store {i : Instr} {s t : State} (hstore : isStore i = false) (h : exec i s = .next t) :
    t.mem = s.mem := by
  cases hload : isMemoryLoad i with
  | true =>
    cases i with
    | lb | lbu | lh | lhu | lw => exact loadInto_mem h
    | _ => cases hload
  | false =>
    have hsame := exec_withMem s s.mem hload hstore
    rw [State.withMem_self, h, resultWithMem_next, Host.Outcome.next.injEq] at hsame
    rw [hsame, State.withMem_mem]

/-- An instruction that commutes with the exchange keeps the other memory; a store leaves some memory of its own
(20_memory.md R52). -/
theorem exec_withMem_of_not_load {i : Instr} {s t : State} (m : Memory) (hload : isMemoryLoad i = false)
    (h : exec i s = .next t) : ∃ m', exec i (s.withMem m) = .next (t.withMem m') := by
  cases hstore : isStore i with
  | true =>
    cases i with
    | sb | sh | sw => exact storeFrom_withMem m h
    | _ => cases hstore
  | false => exact ⟨m, by rw [exec_withMem s m hload hstore, h, resultWithMem_next]⟩

/-- Settles O20: the exchange of memory commutes with every instruction but the loads, which leave memory as it is, and
the stores, which change nothing else. -/
theorem onlyLoadsReadAndOnlyStoresWriteMemory : Obligations.OnlyLoadsReadAndOnlyStoresWriteMemory :=
  ⟨fun _ _ _ hstore h => exec_mem_of_not_store hstore h,
    fun _ _ _ m hload h => exec_withMem_of_not_load m hload h⟩

end Sys2Proof.Machine
end

section
/-! Arithmetic (40_arithmetic.md): what the two shapes that the arithmetic meanings end in change, and the values that
the sums, the products and the comparisons give, as numbers. -/

namespace Sys2Proof.Machine

/-! ### The shapes -/

/-- A write of one register is its one effect, and pc + 4 (10_state.md R21, R26). -/
theorem completesWithReg_writeBack (rd : RegNum) (v : Word) (s : State) :
    completesWithReg (writeBack rd v s) s rd v (s.pc + 4#32) :=
  ⟨_, rfl, fun r => State.setReg_reg s rd v r, rfl, ⟨rfl, rfl⟩, fun _ => rfl, rfl, rfl, rfl⟩

/-- A write of Hi and Lo is its one effect, and pc + 4 (10_state.md R24, R26). -/
theorem completesWithHiLo_writeHiLo (v : HiLo) (s : State) :
    completesWithHiLo (writeHiLo v s) s v.hi v.lo :=
  ⟨_, rfl, rfl, rfl, rfl, fun _ => rfl, fun _ => rfl, rfl, rfl, rfl⟩

/-- A 64-bit value leaves its two halves in Hi and Lo (40_arithmetic.md R114). -/
theorem completesWithHiLo_writeDword (v : Dword) (s : State) :
    completesWithHiLo (writeDword v s) s (highWord v) (lowWord v) :=
  completesWithHiLo_writeHiLo _ s

/-! ### The values -/

/-- Borrowing from 2^32 does not show modulo 2^32 (40_arithmetic.md R135). -/
theorem toNat_sub_eq_emod (a b : Word) : ((a - b).toNat : Int) = ((a.toNat : Int) - b.toNat) % 4294967296 := by
  have := b.isLt
  rw [BitVec.toNat_sub]
  omega

/-- A 64-bit value is its two halves, the high one first (40_arithmetic.md R114). -/
@[simp] theorem highWord_append_lowWord (v : Dword) : (highWord v ++ lowWord v : Dword) = v :=
  BitVec.extractLsb'_append_extractLsb' (w := 32) (len := 32)

/-- The product of two signed words is at most 2^62 in size, so 64 bits hold it exactly (40_arithmetic.md R114). -/
theorem toInt_signedProduct (a b : Word) : (signedProduct a b).toInt = a.toInt * b.toInt := by
  have hle : a.toInt * b.toInt ≤ 2 ^ 62 := BitVec.toInt_mul_toInt_le
  have hge : -2 ^ 62 ≤ a.toInt * b.toInt := BitVec.le_toInt_mul_toInt
  exact BitVec.toInt_ofInt_eq_self (by decide) (by omega) (by omega)

/-- The product of two unsigned words is below 2^64 (40_arithmetic.md R114). -/
theorem toNat_unsignedProduct (a b : Word) : (unsignedProduct a b).toNat = a.toNat * b.toNat :=
  (BitVec.toNat_ofNat _ _).trans (Nat.mod_eq_of_lt BitVec.toNat_mul_toNat_lt)

/-- Sign extension keeps the number (30_encoding.md R86). -/
theorem toInt_sextImm (imm : Imm16) : (sextImm imm).toInt = imm.toInt :=
  BitVec.toInt_signExtend_of_le (by decide)

theorem truthWord_lessSigned (a b : Word) :
    truthWord (lessSigned a b) = if a.toInt < b.toInt then 1#32 else 0#32 := by
  simp [truthWord, lessSigned]

theorem truthWord_lessUnsigned (a b : Word) :
    truthWord (lessUnsigned a b) = if a.toNat < b.toNat then 1#32 else 0#32 := by
  simp [truthWord, lessUnsigned]

/-! ### The statements -/

/-- Settles O28: both instructions write back the word sum and difference, which wrap modulo 2^32. -/
theorem unsignedAddAndSubtractWrap : Obligations.UnsignedAddAndSubtractWrap := by
  intro rd rs rt s
  have hadd := completesWithReg_writeBack rd (s.reg rs + s.reg rt) s
  have hsub := completesWithReg_writeBack rd (s.reg rs - s.reg rt) s
  exact ⟨rfl, rfl, ⟨_, BitVec.toNat_add _ _, hadd⟩, ⟨_, toNat_sub_eq_emod _ _, hsub⟩⟩

/-- Settles O34: Hi and Lo together are the 64-bit product, which is exact. -/
theorem multiplyLeavesTheProductInHiLo : Obligations.MultiplyLeavesTheProductInHiLo := by
  intro rs rt s
  refine ⟨rfl, rfl, ⟨_, _, completesWithHiLo_writeDword _ s, ?_⟩, ⟨_, _, completesWithHiLo_writeDword _ s, ?_⟩⟩
  · rw [highWord_append_lowWord, toInt_signedProduct]
  · rw [highWord_append_lowWord, toNat_unsignedProduct]

/-- Settles O37: the answer of each comparison is written back; for slti the extended immediate is the same number. -/
theorem setOnLessThan : Obligations.SetOnLessThan := by
  intro rd rs rt imm s
  rw [← toInt_sextImm imm, ← truthWord_lessSigned, ← truthWord_lessUnsigned, ← truthWord_lessSigned]
  exact ⟨rfl, rfl, rfl, completesWithReg_writeBack _ _ s, completesWithReg_writeBack _ _ s,
    completesWithReg_writeBack _ _ s⟩

end Sys2Proof.Machine
end

section
/-! lui and the ori after it (43_load.md R175): the register that both write, the word with the immediate in its high
half, and what an ori puts below it. -/

namespace Sys2Proof.Machine

/-- A register other than 0 reads what was written to it (10_state.md R21). -/
theorem State.setReg_reg_self {s : State} {r : RegNum} {v : Word} (hr : r ≠ 0#5) : (s.setReg r v).reg r = v := by
  rw [State.setReg_reg, if_neg hr, if_pos rfl]

/-- The immediate above 16 zero bits is 65536 times its number (43_load.md R175). -/
theorem toNat_append_zeroHalf (imm : Imm16) : (imm ++ 0#16 : Word).toNat = imm.toNat * 65536 := by
  rw [toNat_append_eq, BitVec.toNat_zero]
  omega

/-- The zero half takes the second immediate, and the zero extension leaves the first as it is
(43_load.md R175, 45_logic.md R195). -/
theorem append_zeroHalf_or_zextImm (imm low : Imm16) : (imm ++ 0#16 : Word) ||| zextImm low = imm ++ low := by
  have hlow : zextImm low = 0#16 ++ low := BitVec.setWidth_eq_append (by decide)
  rw [hlow, BitVec.or_append, BitVec.or_zero, BitVec.zero_or]

/-- Settles O49: lui writes back its immediate above a zero half, which the ori reads from the same register unless that
is register 0. -/
theorem loadUpperImmediate : Obligations.LoadUpperImmediate := by
  intro rt imm low s
  refine ⟨imm ++ 0#16, toNat_append_zeroHalf imm, rfl, completesWithReg_writeBack rt _ s, _, _, rfl, rfl, ?_⟩
  intro hrt
  rw [State.advance_reg, State.setReg_reg_self hrt, State.advance_reg, State.setReg_reg_self hrt,
    append_zeroHalf_or_zextImm]

end Sys2Proof.Machine
end

section
/-! Logic (45_logic.md): what each connective gives in one bit, where a register or an immediate is read. Every meaning of
the family writes back one value, so its effect is that of `completesWithReg_writeBack`. -/

namespace Sys2Proof.Machine

/-- Within the word, nor is the complement of or in every bit (45_logic.md R193). -/
theorem getLsbD_not_or {k : Nat} (hk : k < 32) (a b : Word) :
    (~~~(a ||| b)).getLsbD k = !(a.getLsbD k || b.getLsbD k) := by
  rw [BitVec.getLsbD_not, BitVec.getLsbD_or, decide_eq_true hk, Bool.true_and]

/-- The low half of the extended immediate is the immediate, the high half is zero (45_logic.md R190). -/
theorem getLsbD_zextImm (imm : Imm16) (k : Nat) :
    (zextImm imm).getLsbD k = (decide (k < 16) && imm.getLsbD k) := by
  have hext : zextImm imm = 0#16 ++ imm := BitVec.setWidth_eq_append (by decide)
  rw [hext, BitVec.getLsbD_append, BitVec.getLsbD_zero]
  by_cases hk : k < 16
  · rw [if_pos hk, decide_eq_true hk, Bool.true_and]
  · rw [if_neg hk, decide_eq_false hk, Bool.false_and]

/-- Settles O50: each instruction writes back the word whose bits are its connective of the bits of the two registers. -/
theorem logicOnRegisters : Obligations.LogicOnRegisters := by
  intro rd rs rt s gives
  have hand : gives (.and rd rs rt) (fun a b => a && b) :=
    ⟨_, fun _ _ => BitVec.getLsbD_and, completesWithReg_writeBack rd (s.reg rs &&& s.reg rt) s⟩
  have hor : gives (.or rd rs rt) (fun a b => a || b) :=
    ⟨_, fun _ _ => BitVec.getLsbD_or, completesWithReg_writeBack rd (s.reg rs ||| s.reg rt) s⟩
  have hxor : gives (.xor rd rs rt) (fun a b => a != b) :=
    ⟨_, fun _ _ => BitVec.getLsbD_xor, completesWithReg_writeBack rd (s.reg rs ^^^ s.reg rt) s⟩
  have hnor : gives (.nor rd rs rt) (fun a b => !(a || b)) :=
    ⟨_, fun _ hk => getLsbD_not_or hk _ _, completesWithReg_writeBack rd (~~~(s.reg rs ||| s.reg rt)) s⟩
  exact ⟨rfl, rfl, rfl, rfl, hand, hor, hxor, hnor⟩

/-- Settles O51: each instruction writes back its connective of the register and the extended immediate, whose bits are
the immediate's below bit 16 and zero from there on. -/
theorem logicWithImmediate : Obligations.LogicWithImmediate := by
  intro rt rs imm s gives
  have handi : gives (.andi rt rs imm) (fun a b => a && b) :=
    ⟨_, fun k _ => by rw [BitVec.getLsbD_and, getLsbD_zextImm],
      completesWithReg_writeBack rt (s.reg rs &&& zextImm imm) s⟩
  have hori : gives (.ori rt rs imm) (fun a b => a || b) :=
    ⟨_, fun k _ => by rw [BitVec.getLsbD_or, getLsbD_zextImm],
      completesWithReg_writeBack rt (s.reg rs ||| zextImm imm) s⟩
  have hxori : gives (.xori rt rs imm) (fun a b => a != b) :=
    ⟨_, fun k _ => by rw [BitVec.getLsbD_xor, getLsbD_zextImm],
      completesWithReg_writeBack rt (s.reg rs ^^^ zextImm imm) s⟩
  exact ⟨rfl, rfl, rfl, handi, hori, hxori⟩

end Sys2Proof.Machine
end

section
/-! Copies (46_move.md): a conditional move writes its register or only goes on, and going on has the effect of writing a
register's own value back. -/

namespace Sys2Proof.Machine

/-- Every register reads the same when one is given its own value; register 0 reads 0 in any case (10_state.md R21). -/
theorem onlyReg_self (s : State) (d : RegNum) : onlyReg s s d (s.reg d) := by
  intro r
  by_cases hzero : r = 0#5
  · rw [if_pos hzero, hzero, State.reg_zero]
  · by_cases hd : r = d
    · rw [if_neg hzero, if_pos hd, hd]
    · rw [if_neg hzero, if_neg hd]

/-- To go on with nothing written is to keep any one register's old value (46_move.md R203, R204). -/
theorem completesWithReg_advance (d : RegNum) (s : State) :
    completesWithReg (.next s.advance) s d (s.reg d) (s.pc + 4#32) :=
  ⟨_, rfl, onlyReg_self s d, rfl, ⟨rfl, rfl⟩, fun _ => rfl, rfl, rfl, rfl⟩

/-- A write-back under a condition leaves the new value where the condition holds and the old one where it fails
(46_move.md R203, R204). -/
theorem completesWithReg_ite_writeBack (c : Prop) [Decidable c] (d : RegNum) (v : Word) (s : State) :
    completesWithReg (if c then writeBack d v s else .next s.advance) s d (if c then v else s.reg d)
      (s.pc + 4#32) := by
  by_cases hc : c
  · rw [if_pos hc, if_pos hc]
    exact completesWithReg_writeBack d v s
  · rw [if_neg hc, if_neg hc]
    exact completesWithReg_advance d s

/-- Settles O52: mfhi and mflo write back Hi and Lo; mthi and mtlo write the pair with one half replaced by the
register. -/
theorem copiesToAndFromHiLo : Obligations.CopiesToAndFromHiLo := by
  intro rd rs s
  have hmfhi := completesWithReg_writeBack rd s.hi s
  have hmflo := completesWithReg_writeBack rd s.lo s
  have hmthi := completesWithHiLo_writeHiLo { hi := s.reg rs, lo := s.lo } s
  have hmtlo := completesWithHiLo_writeHiLo { hi := s.hi, lo := s.reg rs } s
  exact ⟨rfl, rfl, rfl, rfl, hmfhi, hmflo, hmthi, hmtlo⟩

/-- Settles O53: both are a write-back under a condition on `x[rt]`. -/
theorem conditionalMoves : Obligations.ConditionalMoves := by
  intro rd rs rt s
  have hmovn := completesWithReg_ite_writeBack (s.reg rt ≠ 0#32) rd (s.reg rs) s
  have hmovz := completesWithReg_ite_writeBack (s.reg rt = 0#32) rd (s.reg rs) s
  exact ⟨rfl, rfl, hmovn, hmovz⟩

end Sys2Proof.Machine
end

section
/-! Shifts by a register (47_shift.md): the count read from the low five bits, and the logical shifts as multiplication and
division by a power of two. Every meaning of the family writes back one value, so its effect is that of
`completesWithReg_writeBack`. -/

namespace Sys2Proof.Machine

/-- The bits above the low five do not count (47_shift.md R210). -/
theorem toNat_shiftCount (v : Word) : (shiftCount v).toNat = v.toNat % 32 := by
  rw [shiftCount, BitVec.extractLsb'_toNat, Nat.shiftRight_zero]

/-- The bits shifted out at bit 31 are lost (47_shift.md R210, R211). -/
theorem toNat_shiftLeft (v : Word) (n : Shamt) : (shiftLeft v n).toNat = v.toNat * 2 ^ n.toNat % 4294967296 := by
  rw [shiftLeft, BitVec.toNat_shiftLeft, Nat.shiftLeft_eq]

/-- The bits shifted out at bit 0 are the remainder that the division drops (47_shift.md R210, R215). -/
theorem toNat_shiftRightLogical (v : Word) (n : Shamt) :
    (shiftRightLogical v n).toNat = v.toNat / 2 ^ n.toNat := by
  rw [shiftRightLogical, BitVec.toNat_ushiftRight, Nat.shiftRight_eq_div_pow]

/-- Settles O55: each instruction writes back the shift by the count of its register, which is that register
modulo 32. -/
theorem logicalShiftsByRegister : Obligations.LogicalShiftsByRegister := by
  intro rd rt rs s
  have hsllv := completesWithReg_writeBack rd (shiftLeft (s.reg rt) (shiftCount (s.reg rs))) s
  have hsrlv := completesWithReg_writeBack rd (shiftRightLogical (s.reg rt) (shiftCount (s.reg rs))) s
  rw [← toNat_shiftCount (s.reg rs)]
  exact ⟨rfl, rfl, ⟨_, toNat_shiftLeft _ _, hsllv⟩, ⟨_, toNat_shiftRightLogical _ _, hsrlv⟩⟩

end Sys2Proof.Machine
end

section
/-! What an instruction can do, said once: it takes an exception that the table lists for it, or it has one effect on the
state beside pc and goes on at one of the places of its family. The facts about every instruction and every step are
case analyses of this. -/

namespace Sys2Proof.Machine

/-! ### The outcomes of an instruction -/

/-- What an instruction that completes does to the state, pc left aside. -/
inductive Effect (i : Instr) (s : State) : State → Prop
  /-- nothing -/
  | nothing : Effect i s s
  /-- the write of one register -/
  | reg (r : RegNum) (v : Word) : Effect i s (s.setReg r v)
  /-- the write of Hi and Lo -/
  | hiLo (v : HiLo) (h : writesHiOrLo i = true) : Effect i s (s.setHiLo v)
  /-- a division by 0: free values in Hi and Lo -/
  | freeHiLo (h : writesHiOrLo i = true) : Effect i s s.drawHiLo
  /-- a `mul` where `MUL_HILO` is any: one register and free values in Hi and Lo -/
  | regAndFreeHiLo (r : RegNum) (v : Word) (h : s.params.mulHiLo = .any) : Effect i s (s.drawHiLo.setReg r v)
  /-- the write of an aligned access to memory -/
  | store (w : Width) (a v : Word) (h : aligned w a = true) : Effect i s (s.storeAt w a v)

/-- Where an instruction that completes goes on. -/
inductive GoesOn (i : Instr) (pc : Word) : Word → Prop
  /-- at the next instruction -/
  | next : GoesOn i pc (nextPc pc)
  /-- at a branch target -/
  | branch (imm : Imm16) (h : isTransfer i = true) : GoesOn i pc (branchTarget pc imm)
  /-- at a jump target -/
  | jump (target : Target26) (h : isTransfer i = true) : GoesOn i pc (jumpTarget pc target)
  /-- at the value of a register -/
  | register (a : Word) (ht : isTransfer i = true) (h : isRegisterJump i = true) : GoesOn i pc a
  /-- after the two words of a pseudo-instruction -/
  | twoWords (h : i.isPseudo = true) : GoesOn i pc (nextPc (nextPc pc))

/-- The answer is a listed exception, or one effect and one place to go on at. -/
def Behaves (i : Instr) (s : State) (o : Result) : Prop :=
  (∃ c, mayRaise i c ∧ o = .next (s.raised c)) ∨
  ∃ u pc, Effect i s u ∧ GoesOn i s.pc pc ∧ o = .next (u.goto pc)

/-! ### The shapes of the meanings -/

section
variable {i : Instr} {s : State}

theorem behaves_next {u : State} {pc : Word} (hu : Effect i s u) (hpc : GoesOn i s.pc pc) :
    Behaves i s (.next (u.goto pc)) :=
  .inr ⟨u, pc, hu, hpc, rfl⟩

theorem behaves_raise {c : Cause} (h : mayRaise i c) : Behaves i s (raise c s) := .inl ⟨c, h, rfl⟩

theorem behaves_advance : Behaves i s (.next s.advance) := behaves_next .nothing .next

theorem behaves_writeBack (rd : RegNum) (v : Word) : Behaves i s (writeBack rd v s) :=
  behaves_next (.reg rd v) .next

theorem behaves_writeHiLo (v : HiLo) (h : writesHiOrLo i = true) : Behaves i s (writeHiLo v s) :=
  behaves_next (.hiLo v h) .next

theorem behaves_anyHiLo (h : writesHiOrLo i = true) : Behaves i s (anyHiLo s) :=
  behaves_next (.freeHiLo h) .next

theorem behaves_ite {c : Prop} [Decidable c] {x y : Result} (hx : Behaves i s x) (hy : Behaves i s y) :
    Behaves i s (if c then x else y) := by
  split
  · exact hx
  · exact hy

theorem behaves_trapIf (c : Bool) {code : Option Code10} (h : mayRaise i (.trap code)) :
    Behaves i s (trapIf c code s) :=
  behaves_ite (behaves_raise h) behaves_advance

theorem behaves_branchIf (c : Bool) (imm : Imm16) (h : isTransfer i = true) : Behaves i s (branchIf c imm s) := by
  obtain ⟨_, e⟩ | ⟨_, e⟩ := branchIf_cases c imm s
  · exact e ▸ behaves_next .nothing (.branch imm h)
  · exact e ▸ behaves_next .nothing .next

theorem behaves_branchLinkIf (c : Bool) (imm : Imm16) (h : isTransfer i = true) :
    Behaves i s (branchLinkIf c imm s) := by
  obtain ⟨_, e⟩ | ⟨_, e⟩ := branchLinkIf_cases c imm s
  · exact e ▸ behaves_next (.reg _ _) (.branch imm h)
  · exact e ▸ behaves_next (.reg _ _) .next

theorem behaves_loadInto {w : Width} {extend : Word → Word} {rt rs : RegNum} {imm : Imm16}
    (h : ∀ a, mayRaise i (.addressError .load a)) : Behaves i s (loadInto w extend rt rs imm s) := by
  obtain ⟨_, e⟩ | ⟨_, e⟩ := loadInto_cases w extend rt rs imm s
  · exact e ▸ behaves_next (.reg _ _) .next
  · exact e ▸ behaves_raise (h _)

theorem behaves_storeFrom {w : Width} {rt rs : RegNum} {imm : Imm16}
    (h : ∀ a, mayRaise i (.addressError .store a)) : Behaves i s (storeFrom w rt rs imm s) := by
  obtain ⟨hnone, e⟩ | ⟨_, e⟩ := storeFrom_cases w rt rs imm s
  · exact e ▸ behaves_next (.store _ _ _ (accessError_eq_none.1 hnone).1) .next
  · exact e ▸ behaves_raise (h _)

/-- `mul` draws free values exactly where `MUL_HILO` is any (40_arithmetic.md R127). -/
theorem behaves_execMul (rd rs rt : RegNum) : Behaves i s (execMul rd rs rt s) := by
  unfold execMul
  cases h : s.params.mulHiLo with
  | unchanged => exact behaves_writeBack _ _
  | any => exact behaves_next (.regAndFreeHiLo _ _ h) .next

end

/-- Everything an instruction can do. -/
theorem exec_behaves (i : Instr) (s : State) : Behaves i s (exec i s) := by
  cases i with
  | addiu | addu | clo | clz | slt | slti | sltiu | sltu | subu | lui | and | andi | nor | or | ori | xor | xori
  | mfhi | mflo | sll | sllv | sra | srav | srl | srlv => exact behaves_writeBack _ _
  | mthi | mtlo | madd | maddu | msub | msubu | mult | multu => exact behaves_writeHiLo _ rfl
  | divu => exact behaves_ite (behaves_anyHiLo rfl) (behaves_writeHiLo _ rfl)
  | div => exact behaves_ite (behaves_anyHiLo rfl) (behaves_ite (behaves_writeHiLo _ rfl) (behaves_writeHiLo _ rfl))
  | mul => exact behaves_execMul _ _ _
  | add | addi | sub => exact behaves_ite (behaves_raise rfl) (behaves_writeBack _ _)
  | movn | movz => exact behaves_ite (behaves_writeBack _ _) behaves_advance
  | lb | lbu | lh | lhu | lw => exact behaves_loadInto fun a => ⟨a, rfl⟩
  | sb | sh | sw => exact behaves_storeFrom fun a => ⟨a, rfl⟩
  | beq | bgez | bgtz | blez | bltz | bne | b => exact behaves_branchIf _ _ rfl
  | bgezal | bltzal | bal => exact behaves_branchLinkIf _ _ rfl
  | j => exact behaves_next .nothing (.jump _ rfl)
  | jal => exact behaves_next (.reg _ _) (.jump _ rfl)
  | jr => exact behaves_next .nothing (.register _ rfl rfl)
  | jalr => exact behaves_next (.reg _ _) (.register _ rfl rfl)
  | brk | syscall => exact behaves_raise rfl
  | teq | teqi | tge | tgei | tgeiu | tgeu | tlt | tlti | tltiu | tltu | tne | tnei => exact behaves_trapIf _ rfl
  | nop => exact behaves_advance
  | li | la => exact behaves_next (.reg _ _) (.twoWords rfl)

/-- The same, of a next state that an instruction is known to give. -/
theorem exec_next_cases {i : Instr} {s t : State} (h : exec i s = .next t) :
    (∃ c, mayRaise i c ∧ t = s.raised c) ∨ ∃ u pc, Effect i s u ∧ GoesOn i s.pc pc ∧ t = u.goto pc := by
  have hb := exec_behaves i s
  rw [h] at hb
  obtain ⟨c, hc, e⟩ | ⟨u, pc, hu, hpc, e⟩ := hb
  · exact .inl ⟨c, hc, Host.Outcome.next.inj e⟩
  · exact .inr ⟨u, pc, hu, hpc, Host.Outcome.next.inj e⟩

/-- Everything a step can lead to: the state with an exception taken, or one that an instruction completes in. -/
theorem step_next_cases {s t : State} (h : step s = .next t) :
    s.trap = none ∧ ((∃ c, t = s.raised c) ∨ ∃ i u pc, Effect i s u ∧ GoesOn i s.pc pc ∧ t = u.goto pc) := by
  obtain ⟨record, _, e⟩ | ⟨htrap, c, _, e⟩ | ⟨htrap, i, _, e⟩ := step_cases s
  · cases e.symm.trans h
  · exact ⟨htrap, .inl ⟨c, Host.Outcome.next.inj (h.symm.trans e)⟩⟩
  · obtain ⟨c, _, rfl⟩ | ⟨u, pc, hu, hpc, rfl⟩ := exec_next_cases (e.symm.trans h)
    · exact ⟨htrap, .inl ⟨c, rfl⟩⟩
    · exact ⟨htrap, .inr ⟨i, u, pc, hu, hpc, rfl⟩⟩

/-! ### What each effect keeps -/

section
variable {i : Instr} {s u : State}

/-- No instruction clears or sets the trap record but by an exception (60_exceptions.md R262). -/
theorem Effect.trap_eq (h : Effect i s u) : u.trap = s.trap := by cases h <;> rfl

theorem Effect.params_eq (h : Effect i s u) : u.params = s.params := by cases h <;> rfl

theorem Effect.inv (h : Effect i s u) (hs : s.Inv) : u.Inv := by
  obtain ⟨hmem, hslot⟩ := hs
  cases h with
  | nothing | hiLo | freeHiLo => exact ⟨hmem, hslot⟩
  | reg r v => exact ⟨hmem, (State.setReg_slot_zero s r v).trans hslot⟩
  | regAndFreeHiLo r v => exact ⟨hmem, (State.setReg_slot_zero s.drawHiLo r v).trans hslot⟩
  | store w a v ha => exact ⟨storeAt_wf v hmem ha, hslot⟩

theorem Effect.sameHiLo (h : Effect i s u) (hmul : s.params.mulHiLo = .unchanged) (hi : writesHiOrLo i = false) :
    sameHiLo s u := by
  cases h with
  | nothing | reg | store => exact ⟨rfl, rfl⟩
  | hiLo _ hw => cases hi.symm.trans hw
  | freeHiLo hw => cases hi.symm.trans hw
  | regAndFreeHiLo _ _ hany => cases hmul.symm.trans hany

end

/-! ### Targets as numbers -/

theorem toNat_nextPc (pc : Word) : (nextPc pc).toNat = (pc.toNat + 4) % 4294967296 := BitVec.toNat_add pc 4#32

/-- The branch target counts words from the next instruction, modulo 2^32 (30_encoding.md R88). -/
theorem toNat_branchTarget (pc : Word) (imm : Imm16) :
    ((branchTarget pc imm).toNat : Int) = (pc.toNat + 4 + 4 * imm.toInt) % 4294967296 := by
  have hext : ((sextImm imm).toNat : Int) = imm.toInt % 4294967296 := by
    rw [← toInt_sextImm, BitVec.toInt_eq_toNat_cond]
    have := (sextImm imm).isLt
    split <;> omega
  rw [branchTarget, BitVec.toNat_add, BitVec.toNat_shiftLeft, Nat.shiftLeft_eq, toNat_nextPc]
  omega

/-- A jump target is the 256 MiB region of the next instruction and the word index below it (30_encoding.md R89). -/
theorem toNat_jumpTarget (pc : Word) (target : Target26) :
    (jumpTarget pc target).toNat = (nextPc pc).toNat / 268435456 * 268435456 + 4 * target.toNat := by
  have := (nextPc pc).isLt
  rw [jumpTarget, toNat_append_eq, toNat_append_eq, toNat_extract]
  simp only [BitVec.toNat_zero]
  omega

/-- Every place but a register's value is a multiple of 4 when pc is (10_state.md R27). -/
theorem GoesOn.aligned {i : Instr} {pc a : Word} (h : GoesOn i pc a) (hi : isRegisterJump i = false)
    (hpc : pc.toNat % 4 = 0) : a.toNat % 4 = 0 := by
  cases h with
  | next => rw [toNat_nextPc]; omega
  | branch imm => have := toNat_branchTarget pc imm; omega
  | jump target => rw [toNat_jumpTarget]; omega
  | register _ _ hr => cases hi.symm.trans hr
  | twoWords => rw [toNat_nextPc, toNat_nextPc]; omega

/-- A machine instruction that is no transfer goes on at the next word (10_state.md R26). -/
theorem GoesOn.eq_nextPc {i : Instr} {pc a : Word} (h : GoesOn i pc a) (hi : isTransfer i = false)
    (hp : i.isPseudo = false) : a = nextPc pc := by
  cases h with
  | next => rfl
  | branch _ ht | jump _ ht | register _ ht => cases hi.symm.trans ht
  | twoWords ht => cases hp.symm.trans ht

/-! ### The statements about every instruction and every step -/

/-- Settles O14: only an exception sets the trap record, and taking one changes nothing else. -/
theorem exceptionsArePrecise : Obligations.ExceptionsArePrecise := by
  intro s t h htrap
  obtain ⟨hs, ⟨c, rfl⟩ | ⟨i, u, pc, hu, _, rfl⟩⟩ := step_next_cases h
  · exact ⟨c, rfl⟩
  · exact absurd (hu.trap_eq.trans hs) htrap

/-- Settles O16: taking an exception leaves memory and the registers as they are, and each effect keeps the
invariant. -/
theorem everyStepKeepsTheStateInvariant : Obligations.EveryStepKeepsTheStateInvariant := by
  intro s t hinv h
  obtain ⟨_, ⟨c, rfl⟩ | ⟨i, u, pc, hu, _, rfl⟩⟩ := step_next_cases h
  · exact hinv
  · exact hu.inv hinv

/-- Settles O13: every outcome of an instruction is a next state, and so is that of the fetch. -/
theorem runningMachineAlwaysSteps : Obligations.RunningMachineAlwaysSteps := by
  have hexec : ∀ (i : Instr) (s : State), ∃ t, exec i s = .next t := by
    intro i s
    obtain ⟨c, _, e⟩ | ⟨u, pc, _, _, e⟩ := exec_behaves i s
    · exact ⟨_, e⟩
    · exact ⟨_, e⟩
  refine ⟨hexec, fun s hs => ?_⟩
  obtain ⟨record, htrap, _⟩ | ⟨_, c, _, e⟩ | ⟨_, i, _, e⟩ := step_cases s
  · cases hs.symm.trans htrap
  · exact ⟨_, e⟩
  · exact e ▸ hexec i s

/-- Settles O15: an instruction that completes keeps the trap record, and one that raises has its cause listed. -/
theorem onlyListedExceptionsAreRaised : Obligations.OnlyListedExceptionsAreRaised := by
  intro i s t record hs h htrap
  obtain ⟨c, hc, rfl⟩ | ⟨u, pc, hu, _, rfl⟩ := exec_next_cases h
  · cases htrap
    exact hc
  · cases (hu.trap_eq.trans hs).symm.trans htrap

/-- Settles O19: neither an exception nor an effect touches the parameters. -/
theorem parametersHoldForAWholeRun : Obligations.ParametersHoldForAWholeRun := by
  intro s t h
  obtain ⟨_, ⟨c, rfl⟩ | ⟨i, u, pc, hu, _, rfl⟩⟩ := step_next_cases h
  · rfl
  · exact hu.params_eq

/-- Settles O21: the effects on Hi and Lo are those of the listed instructions and of `mul` where `MUL_HILO` is any. -/
theorem onlyListedInstructionsWriteHiAndLo : Obligations.OnlyListedInstructionsWriteHiAndLo := by
  intro i s t hmul hi h
  obtain ⟨c, _, rfl⟩ | ⟨u, pc, hu, _, rfl⟩ := exec_next_cases h
  · exact ⟨rfl, rfl⟩
  · exact hu.sameHiLo hmul hi

/-- Settles O22: an exception leaves pc and sets the record; a completion keeps the record and goes on at the next
word. -/
theorem otherInstructionsGoOnAtTheNextWord : Obligations.OtherInstructionsGoOnAtTheNextWord := by
  intro i s t hi hp hs h
  obtain ⟨c, _, rfl⟩ | ⟨u, pc, hu, hpc, rfl⟩ := exec_next_cases h
  · exact .inr ⟨Option.some_ne_none _, rfl⟩
  · exact .inl ⟨hu.trap_eq.trans hs, hpc.eq_nextPc hi hp⟩

/-- Settles O23: an exception leaves pc, and every place to go on at but a register's value is a multiple of 4. -/
theorem onlyRegisterJumpsMisalignPc : Obligations.OnlyRegisterJumpsMisalignPc := by
  intro i s t hi hpc h
  obtain ⟨c, _, rfl⟩ | ⟨u, pc, _, hgo, rfl⟩ := exec_next_cases h
  · exact hpc
  · exact hgo.aligned hi hpc

end Sys2Proof.Machine
end

section
/-! Words (30_encoding.md): the fields of the word of each format, what the decoder answers to them, and each of encoder
and decoder as the other's inverse. -/

namespace Sys2Proof

/-! ### A word of a format is known by its fields -/

section
variable {w : Word} {op funct : BitVec 6} {rs rt rd shamt : BitVec 5}

theorem formatR_eq_iff : formatR op rs rt rd shamt funct = w ↔
    opField w = op ∧ rsField w = rs ∧ rtField w = rt ∧ rdField w = rd ∧ shamtField w = shamt ∧ functField w = funct := by
  constructor
  · rintro rfl
    exact fields_formatR op rs rt rd shamt funct
  · rintro ⟨rfl, rfl, rfl, rfl, rfl, rfl⟩
    exact formatR_fields w

theorem formatI_eq_iff {imm : Imm16} : formatI op rs rt imm = w ↔
    opField w = op ∧ rsField w = rs ∧ rtField w = rt ∧ immField w = imm := by
  constructor
  · rintro rfl
    exact fields_formatI op rs rt imm
  · rintro ⟨rfl, rfl, rfl, rfl⟩
    exact formatI_fields w

theorem formatJ_eq_iff {target : Target26} : formatJ op target = w ↔ opField w = op ∧ targetField w = target := by
  constructor
  · rintro rfl
    exact fields_formatJ op target
  · rintro ⟨rfl, rfl⟩
    exact formatJ_fields w

theorem formatCode20_eq_iff {code : Code20} : formatCode20 op code funct = w ↔
    opField w = op ∧ code20Field w = code ∧ functField w = funct := by
  constructor
  · rintro rfl
    exact fields_formatCode20 op code funct
  · rintro ⟨rfl, rfl, rfl⟩
    exact formatCode20_fields w

theorem formatCode10_eq_iff {code : Code10} : formatCode10 op rs rt code funct = w ↔
    opField w = op ∧ rsField w = rs ∧ rtField w = rt ∧ code10Field w = code ∧ functField w = funct := by
  constructor
  · rintro rfl
    exact fields_formatCode10 op rs rt code funct
  · rintro ⟨rfl, rfl, rfl, rfl, rfl⟩
    exact formatCode10_fields w

end

/-! ### What the decoder accepts -/

theorem ifUnusedZero_eq_ok {zero : Bool} {i j : Instr} : ifUnusedZero zero i = .ok j ↔ zero = true ∧ i = j := by
  cases zero <;> simp [ifUnusedZero]

theorem ifCountForm_eq_ok {w : Word} {i j : Instr} :
    ifCountForm w i = .ok j ↔ (rtField w = rdField w ∧ shamtField w = 0#5) ∧ i = j := by
  by_cases h : rtField w = rdField w <;> simp [ifCountForm, h, ifUnusedZero_eq_ok]

/-- An arm of the decoder without unused fields asks for nothing. -/
theorem ok_eq_ok {i j : Instr} : (Except.ok i : Except Reject Instr) = .ok j ↔ True ∧ i = j := by simp

/-- The word is the one word of a machine instruction. -/
def IsWordOf (w : Word) (i : Instr) : Prop := encode i = [w] ∧ i.isPseudo = false

theorem decodeSpecial_sound {w : Word} {i : Instr} (hop : opField w = 0#6) (h : decodeSpecial w = .ok i) :
    IsWordOf w i := by
  unfold decodeSpecial at h
  split at h
  all_goals
    simp only [ifUnusedZero_eq_ok, ok_eq_ok, reduceCtorEq, Bool.and_eq_true, beq_iff_eq] at h
  all_goals
    rename_i hfunct
    obtain ⟨-, hfunct⟩ := BitVec.toNat_eq_nat.1 hfunct
    obtain ⟨hunused, rfl⟩ := h
    simp [IsWordOf, encode, formatR_eq_iff, formatCode20_eq_iff, formatCode10_eq_iff, Instr.isPseudo, hop, hunused,
      hfunct]

theorem decodeRegimm_sound {w : Word} {i : Instr} (hop : opField w = 1#6) (h : decodeRegimm w = .ok i) :
    IsWordOf w i := by
  unfold decodeRegimm at h
  split at h
  all_goals simp only [ok_eq_ok, reduceCtorEq] at h
  all_goals
    rename_i hrt
    obtain ⟨-, hrt⟩ := BitVec.toNat_eq_nat.1 hrt
    obtain ⟨-, rfl⟩ := h
    simp [IsWordOf, encode, formatI_eq_iff, Instr.isPseudo, hop, hrt]

theorem decodeSpecial2_sound {w : Word} {i : Instr} (hop : opField w = 28#6) (h : decodeSpecial2 w = .ok i) :
    IsWordOf w i := by
  unfold decodeSpecial2 at h
  split at h
  all_goals
    simp only [ifUnusedZero_eq_ok, ifCountForm_eq_ok, reduceCtorEq, Bool.and_eq_true, beq_iff_eq] at h
  all_goals
    rename_i hfunct
    obtain ⟨-, hfunct⟩ := BitVec.toNat_eq_nat.1 hfunct
    obtain ⟨hunused, rfl⟩ := h
    simp [IsWordOf, encode, formatR_eq_iff, Instr.isPseudo, hop, hunused, hfunct]

/-- Every arm of the decoder names an instruction whose word is the one decoded: the fields it reads, with those it
requires to be 0 and those that choose it, are the whole word. -/
theorem decodePrimary_sound {w : Word} {i : Instr} (h : decodePrimary w = .ok i) : IsWordOf w i := by
  unfold decodePrimary at h
  split at h
  case h_26 => cases h
  all_goals
    rename_i hop
    obtain ⟨-, hop⟩ := BitVec.toNat_eq_nat.1 hop
  -- The classes that funct or rt chooses from (30_encoding.md R95, R96, R97).
  case h_1 => exact decodeSpecial_sound hop h
  case h_2 => exact decodeRegimm_sound hop h
  case h_17 => exact decodeSpecial2_sound hop h
  all_goals
    simp only [ifUnusedZero_eq_ok, ok_eq_ok, beq_iff_eq] at h
    obtain ⟨hunused, rfl⟩ := h
    simp [IsWordOf, encode, formatI_eq_iff, formatJ_eq_iff, Instr.isPseudo, hop, hunused]

/-! ### The word of an instruction decodes to it -/

section
variable {w : Word}

theorem decodePrimary_of_special (hop : opField w = 0#6) : decodePrimary w = decodeSpecial w := by
  simp [decodePrimary, hop]

theorem decodePrimary_of_regimm (hop : opField w = 1#6) : decodePrimary w = decodeRegimm w := by
  simp [decodePrimary, hop]

theorem decodePrimary_of_special2 (hop : opField w = 28#6) : decodePrimary w = decodeSpecial2 w := by
  simp [decodePrimary, hop]

end

/-- The word of an instruction decodes to it; the words of nop, b and bal to the special cases that they spell
(30_encoding.md R101). -/
theorem decodePrimary_encode {i : Instr} {w : Word} (h : IsWordOf w i) :
    ∃ j, decodePrimary w = .ok j ∧ j.canonical = i.canonical := by
  obtain ⟨hw, hp⟩ := h
  cases i
  case li | la => cases hp
  all_goals simp only [encode, List.cons.injEq, formatR_eq_iff, formatI_eq_iff, formatJ_eq_iff, formatCode20_eq_iff,
    formatCode10_eq_iff, and_true] at hw
  case nop => exact ⟨.sll 0#5 0#5 0#5, by simp [decodePrimary_of_special, decodeSpecial, ifUnusedZero, hw], rfl⟩
  case b imm => exact ⟨.beq 0#5 0#5 imm, by simp [decodePrimary, hw], rfl⟩
  case bal imm => exact ⟨.bgezal 0#5 imm, by simp [decodePrimary_of_regimm, decodeRegimm, hw], rfl⟩
  case clo | clz | madd | maddu | msub | msubu | mul =>
    exact ⟨_, by simp [decodePrimary_of_special2, decodeSpecial2, ifUnusedZero, ifCountForm, hw], rfl⟩
  case bgez | bgezal | bltz | bltzal | teqi | tgei | tgeiu | tlti | tltiu | tnei =>
    exact ⟨_, by simp [decodePrimary_of_regimm, decodeRegimm, hw], rfl⟩
  case addi | addiu | slti | sltiu | beq | bgtz | blez | bne | j | jal | lb | lbu | lh | lhu | lui | lw | sb | sh | sw
      | andi | ori | xori =>
    exact ⟨_, by simp [decodePrimary, ifUnusedZero, hw], rfl⟩
  all_goals exact ⟨_, by simp [decodePrimary_of_special, decodeSpecial, ifUnusedZero, hw], rfl⟩

/-- A machine instruction has one word (30_encoding.md R80). -/
theorem exists_isWordOf {i : Instr} (hp : i.isPseudo = false) : ∃ w, IsWordOf w i := by
  cases i
  case li | la => cases hp
  all_goals exact ⟨_, rfl, rfl⟩

theorem decode_eq_ok {w : Word} {i : Instr} : decode w = .ok i ↔ ∃ j, decodePrimary w = .ok j ∧ j.canonical = i := by
  unfold decode
  cases decodePrimary w <;> simp [Except.map]

/-- What a word decodes to is a machine instruction that has this word, under its canonical name. -/
theorem decode_sound {w : Word} {i : Instr} (h : decode w = .ok i) : IsWordOf w i ∧ i.canonical = i := by
  obtain ⟨j, hj, rfl⟩ := decode_eq_ok.1 h
  obtain ⟨hw, hp⟩ := decodePrimary_sound hj
  exact ⟨⟨(encode_canonical j).trans hw, (Instr.isPseudo_canonical j).trans hp⟩, Instr.canonical_canonical j⟩

theorem Instr.wellFormed_iff {i : Instr} : i.wellFormed = true ↔ i.isPseudo = false ∧ i.canonical = i := by
  simp [Instr.wellFormed]

/-- Settles O1: the one word of the instruction decodes to its canonical name, which is its own. -/
theorem decodeInvertsEncode : Obligations.DecodeInvertsEncode := by
  intro i hi
  obtain ⟨hp, hcanonical⟩ := Instr.wellFormed_iff.1 hi
  obtain ⟨w, hw⟩ := exists_isWordOf hp
  obtain ⟨j, hj, hji⟩ := decodePrimary_encode hw
  exact ⟨w, hw.1, decode_eq_ok.2 ⟨j, hj, hji.trans hcanonical⟩⟩

/-- Settles O2: in each arm of the decoder the fields that it reads, with those it requires to be 0, are the whole word. -/
theorem encodeInvertsDecode : Obligations.EncodeInvertsDecode := by
  intro w i h
  obtain ⟨⟨hw, hp⟩, hcanonical⟩ := decode_sound h
  exact ⟨Instr.wellFormed_iff.2 ⟨hp, hcanonical⟩, hw⟩

/-! ### The two names of one word -/

section
open Machine

/-- A special case and its other spelling have one meaning (30_encoding.md R101). -/
theorem Machine.exec_canonical (i : Instr) (s : State) : exec i.canonical s = exec i s := by
  cases i <;> try rfl
  case sll rd rt shamt =>
    by_cases h : rd = 0#5 ∧ rt = 0#5 ∧ shamt = 0#5
    · obtain ⟨rfl, rfl, rfl⟩ := h
      rfl
    · rw [Instr.canonical, if_neg h]
  case beq rs rt imm =>
    by_cases h : rs = 0#5 ∧ rt = 0#5
    · obtain ⟨rfl, rfl⟩ := h
      rfl
    · rw [Instr.canonical, if_neg h]
  case bgezal rs imm =>
    by_cases h : rs = 0#5
    · subst h
      rfl
    · rw [Instr.canonical, if_neg h]

end

/-- Settles O3: the decoder names a special case by its canonical name, whose meaning is the same. -/
theorem spellingsNameTheSameInstruction : Obligations.SpellingsNameTheSameInstruction := by
  intro i hp
  obtain ⟨w, hw⟩ := exists_isWordOf hp
  exact ⟨⟨w, hw.1, decode_eq_ok.2 (decodePrimary_encode hw)⟩, Machine.exec_canonical i⟩

/-- Settles O6: closed words, decoded. -/
theorem specWordsDecode : Obligations.SpecWordsDecode := by
  unfold Obligations.SpecWordsDecode
  decide

end Sys2Proof
end

section
/-! The opcode table (30_encoding.md R93): a row selects a word by its fields, so that the rows agree with the encoder and
with the arms of the decoder, and no two of them select one word. -/

namespace Sys2Proof

/-! ### A row by its fields -/

theorem word_eq_iff_fields {v w : Word} : v = w ↔ opField w = opField v ∧ rsField w = rsField v ∧
    rtField w = rtField v ∧ rdField w = rdField v ∧ shamtField w = shamtField v ∧ functField w = functField v := by
  conv_lhs => rw [← formatR_fields v]
  exact formatR_eq_iff

/-- A row selects a word field by field. -/
theorem OpcodeRow.selects_iff {r : OpcodeRow} {w : Word} : r.selects w = true ↔
    opField w &&& r.mask.extractLsb' 26 6 = r.pattern.extractLsb' 26 6 ∧
    rsField w &&& r.mask.extractLsb' 21 5 = r.pattern.extractLsb' 21 5 ∧
    rtField w &&& r.mask.extractLsb' 16 5 = r.pattern.extractLsb' 16 5 ∧
    rdField w &&& r.mask.extractLsb' 11 5 = r.pattern.extractLsb' 11 5 ∧
    shamtField w &&& r.mask.extractLsb' 6 5 = r.pattern.extractLsb' 6 5 ∧
    functField w &&& r.mask.extractLsb' 0 6 = r.pattern.extractLsb' 0 6 := by
  rw [OpcodeRow.selects, beq_iff_eq, eq_comm, word_eq_iff_fields]
  simp only [opField, rsField, rtField, rdField, shamtField, functField, BitVec.extractLsb'_and]

theorem and_allOnes_field (x : BitVec 5) : x &&& 31#5 = x := BitVec.and_allOnes
theorem and_allOnes_funct (x : BitVec 6) : x &&& 63#6 = x := BitVec.and_allOnes

/-! ### The rows and the decoder -/

/-- The rows stand in the order of the constructors. The row of an instruction bears its name and selects its word. -/
theorem row_selects {i : Instr} {w : Word} {r : OpcodeRow} (hw : IsWordOf w i)
    (hr : (opcodeRows ++ aliasRows)[i.ctorIdx]? = some r) :
    r.selects w = true ∧ r.condition w = true ∧ r.mnemonic = i.mnemonic := by
  obtain ⟨hw, hp⟩ := hw
  cases i
  case li | la => cases hp
  all_goals
    cases hr
    simp only [encode, List.cons.injEq, formatR_eq_iff, formatI_eq_iff, formatJ_eq_iff, formatCode20_eq_iff,
      formatCode10_eq_iff, and_true] at hw
    refine ⟨?_, ?_, rfl⟩
    · simp [OpcodeRow.selects_iff, and_allOnes_field, and_allOnes_funct, hw]
    · simp [OpcodeRow.condition, hw]

theorem exists_row {i : Instr} (hp : i.isPseudo = false) : ∃ r, (opcodeRows ++ aliasRows)[i.ctorIdx]? = some r := by
  cases i
  case li | la => cases hp
  all_goals exact ⟨_, rfl⟩

/-- The words of nop, b and bal are selected by the rows of the special cases that they spell as well
(30_encoding.md R101). -/
theorem exists_row_of_isWordOf {i : Instr} {w : Word} (hw : IsWordOf w i) :
    ∃ r ∈ opcodeRows, r.selects w = true ∧ r.condition w = true := by
  have of_row {j : Instr} {r : OpcodeRow} (hj : IsWordOf w j) (hr : opcodeRows[j.ctorIdx]? = some r) :
      ∃ r ∈ opcodeRows, r.selects w = true ∧ r.condition w = true := by
    obtain ⟨hlt, _⟩ := List.getElem?_eq_some_iff.1 hr
    obtain ⟨hs, hc, _⟩ := row_selects hj ((List.getElem?_append_left hlt).trans hr)
    exact ⟨r, List.mem_of_getElem? hr, hs, hc⟩
  cases i with
  | nop => exact of_row (j := .sll 0#5 0#5 0#5) hw rfl
  | b imm => exact of_row (j := .beq 0#5 0#5 imm) hw rfl
  | bal imm => exact of_row (j := .bgezal 0#5 imm) hw rfl
  | li | la => cases hw.2
  | _ => exact of_row hw rfl

/-- For every row of a machine instruction the decoder has an arm, and the fields that the arm requires to be 0 are 0 by
the row's mask. -/
theorem decodePrimary_of_selects {w : Word} : ∀ r ∈ opcodeRows, r.selects w = true → r.condition w = true →
    ∃ i, decodePrimary w = .ok i := by
  simp only [opcodeRows, opcodeRowsArithmetic, opcodeRowsBranch, opcodeRowsLoad, opcodeRowsStore, opcodeRowsLogic,
    opcodeRowsMove, opcodeRowsShift, opcodeRowsTrap, List.cons_append, List.nil_append, List.forall_mem_cons,
    List.not_mem_nil, false_imp_iff, implies_true, and_true]
  and_intros
  all_goals
    intro hfields hcondition
    simp only [OpcodeRow.selects_iff, BitVec.reduceExtractLsb', and_allOnes_field, and_allOnes_funct, BitVec.and_zero,
      true_and, and_true] at hfields
    simp only [OpcodeRow.condition, String.reduceEq, or_false, or_true, if_true, if_false,
      beq_iff_eq] at hcondition
    simp [decodePrimary, decodeSpecial, decodeRegimm, decodeSpecial2, ifUnusedZero, ifCountForm, hfields, hcondition]

/-- Two rows are disjoint where their patterns differ in a bit that both masks fix. -/
theorem OpcodeRow.not_selects_both {p q : OpcodeRow} (h : p.pattern &&& q.mask ≠ q.pattern &&& p.mask) (w : Word) :
    ¬ (p.selects w = true ∧ q.selects w = true) := by
  simp only [OpcodeRow.selects, beq_iff_eq]
  rintro ⟨hp, hq⟩
  rw [← hp, ← hq, BitVec.and_assoc, BitVec.and_assoc, BitVec.and_comm p.mask] at h
  exact h rfl

/-- Settles O4: a word that decodes is the word of an instruction, which the row of that instruction selects, and a row
that selects a word leads to an arm of the decoder. -/
theorem decoderFollowsTheOpcodeTable : Obligations.DecoderFollowsTheOpcodeTable := by
  refine ⟨fun w => ⟨?_, ?_⟩, ?_⟩
  · rintro ⟨i, h⟩
    exact exists_row_of_isWordOf (decode_sound h).1
  · rintro ⟨r, hr, hs, hc⟩
    obtain ⟨i, hi⟩ := decodePrimary_of_selects r hr hs hc
    exact ⟨_, decode_eq_ok.2 ⟨i, hi, rfl⟩⟩
  · intro w i h
    obtain ⟨r, hr⟩ := exists_row (decode_sound h).1.2
    obtain ⟨hs, _, hname⟩ := row_selects (decode_sound h).1 hr
    exact ⟨r, List.mem_of_getElem? hr, hs, hname⟩

/-- Settles O5: the rows are 75, and of every two of them the patterns differ in a bit that both masks fix. -/
theorem opcodeRowsAreDisjoint : Obligations.OpcodeRowsAreDisjoint := by
  have hbits : opcodeRows.Pairwise fun p q => p.pattern &&& q.mask ≠ q.pattern &&& p.mask := by decide
  exact ⟨rfl, hbits.imp OpcodeRow.not_selects_both⟩

end Sys2Proof
end

section
/-! Memory accesses (20_memory.md): the bytes of a value, in the machine's order, as they are read and written; then loads,
stores and the fetch, which are made of these accesses. -/

namespace Sys2Proof.Machine

/-! ### Bytes as the digits of a value -/

/-- Joined bytes are the digits of their value to base 256, the least significant first (20_memory.md R54). -/
theorem toNat_joinBytes (bs : List Byte) (h : bs.length ≤ 4) :
    (joinBytes bs).toNat = Nat.ofDigits 256 (bs.map BitVec.toNat) := by
  induction bs with
  | nil => rfl
  | cons b bs ih =>
    rw [List.length_cons] at h
    have hlt : (joinBytes bs).toNat < 256 ^ 3 := by
      rw [ih (by omega)]
      calc Nat.ofDigits 256 (bs.map BitVec.toNat) < 256 ^ (bs.map BitVec.toNat).length := by
            refine Nat.ofDigits_lt_base_pow_length (by omega) fun d hd => ?_
            obtain ⟨c, _, rfl⟩ := List.mem_map.1 hd
            exact c.isLt
        _ ≤ 256 ^ 3 := Nat.pow_le_pow_right (by omega) (by rw [List.length_map]; omega)
    have hb : b.toNat < 2 ^ 8 := b.isLt
    rw [joinBytes, BitVec.toNat_or, BitVec.toNat_shiftLeft, BitVec.toNat_setWidth, Nat.mod_eq_of_lt (by omega),
      Nat.mod_eq_of_lt (by rw [Nat.shiftLeft_eq]; omega), Nat.or_comm, ← Nat.shiftLeft_add_eq_or_of_lt hb,
      Nat.shiftLeft_eq, ih (by omega), List.map_cons, Nat.ofDigits_cons]
    omega

theorem ofDigits_splitBytes (n : Nat) (v : Word) :
    Nat.ofDigits 256 ((splitBytes n v).map BitVec.toNat) = v.toNat % 256 ^ n := by
  induction n generalizing v with
  | zero => simp [splitBytes, Nat.mod_one]
  | succ n ih =>
    rw [splitBytes, List.map_cons, Nat.ofDigits_cons, ih, BitVec.toNat_setWidth, BitVec.toNat_ushiftRight,
      Nat.shiftRight_eq_div_pow, Nat.pow_succ' (m := 256), Nat.mod_mul]

/-- The low bytes of a value, joined again, are its low part (20_memory.md R55). -/
theorem joinBytes_splitBytes {n : Nat} (hn : n ≤ 4) (v : Word) :
    joinBytes (splitBytes n v) = BitVec.ofNat 32 (v.toNat % 256 ^ n) := by
  apply BitVec.eq_of_toNat_eq
  rw [toNat_joinBytes _ (by rwa [length_splitBytes]), ofDigits_splitBytes, BitVec.toNat_ofNat]
  exact (Nat.mod_eq_of_lt (lt_of_le_of_lt (Nat.mod_le _ _) v.isLt)).symm

theorem getElem_splitBytes {n k : Nat} (v : Word) (h : k < (splitBytes n v).length) :
    (splitBytes n v)[k] = v.extractLsb' (8 * k) 8 := by
  induction n generalizing v k with
  | zero => simp [splitBytes] at h
  | succ n ih =>
    cases k with
    | zero => exact BitVec.eq_of_toNat_eq (by simp [splitBytes])
    | succ k =>
      simp only [splitBytes, List.getElem_cons_succ, ih]
      apply BitVec.eq_of_toNat_eq
      rw [BitVec.extractLsb'_toNat, BitVec.extractLsb'_toNat, BitVec.toNat_ushiftRight, ← Nat.shiftRight_add]
      congr 2
      omega

/-- The byte at place `k` of the low `n` bytes of a value in the machine's order (20_memory.md R54, R55). -/
theorem getElem_byteOrder_splitBytes (e : Endian) {n k : Nat} (v : Word) (hk : k < n) :
    (byteOrder e (splitBytes n v))[k]'(by rwa [length_byteOrder, length_splitBytes]) =
      v.extractLsb' (8 * (match e with | .little => k | .big => n - 1 - k)) 8 := by
  cases e with
  | little => exact getElem_splitBytes v _
  | big => simp [byteOrder, List.getElem_reverse, getElem_splitBytes, length_splitBytes]

/-! ### The value read -/

theorem joinBytes_one (b : Byte) : joinBytes [b] = b.zeroExtend 32 := by simp [joinBytes]

theorem joinBytes_two (b c : Byte) : joinBytes [b, c] = (c ++ b).zeroExtend 32 := by
  apply BitVec.eq_of_toNat_eq
  rw [toNat_joinBytes _ (by simp), BitVec.toNat_setWidth, toNat_append_eq]
  simp only [List.map_cons, List.map_nil, Nat.ofDigits_cons, Nat.ofDigits_nil]
  omega

theorem joinBytes_four (b c d e : Byte) : joinBytes [b, c, d, e] = e ++ d ++ c ++ b := by
  apply BitVec.eq_of_toNat_eq
  rw [toNat_joinBytes _ (by simp), toNat_append_eq, toNat_append_eq, toNat_append_eq]
  simp only [List.map_cons, List.map_nil, Nat.ofDigits_cons, Nat.ofDigits_nil]
  omega

section
variable (s : State) (a : Word)

theorem valueAt_byte : s.valueAt .byte a = (s.mem.readByte a.toNat).zeroExtend 32 := by
  rw [← joinBytes_one]
  cases h : s.params.endian <;> simp [State.valueAt, h, byteOrder, Width.bytes, Memory.readBytes]

theorem valueAt_half : s.valueAt .half a = (match s.params.endian with
    | .little => s.mem.readByte (a.toNat + 1) ++ s.mem.readByte a.toNat
    | .big => s.mem.readByte a.toNat ++ s.mem.readByte (a.toNat + 1) : BitVec 16).zeroExtend 32 := by
  cases h : s.params.endian <;>
    simp only [← joinBytes_two] <;> simp [State.valueAt, h, byteOrder, Width.bytes, Memory.readBytes]

theorem valueAt_word : s.valueAt .word a = match s.params.endian with
    | .little => s.mem.readByte (a.toNat + 3) ++ s.mem.readByte (a.toNat + 2) ++ s.mem.readByte (a.toNat + 1) ++
        s.mem.readByte a.toNat
    | .big => s.mem.readByte a.toNat ++ s.mem.readByte (a.toNat + 1) ++ s.mem.readByte (a.toNat + 2) ++
        s.mem.readByte (a.toNat + 3) := by
  cases h : s.params.endian <;>
    simp only [← joinBytes_four] <;> simp [State.valueAt, h, byteOrder, Width.bytes, Memory.readBytes]

end

/-! ### The checks -/

theorem aligned_iff {w : Width} {a : Word} : aligned w a = true ↔ a.toNat % w.bytes = 0 := beq_iff_eq

/-- An access passes its checks where its address is a multiple of the width and its bytes are valid
(20_memory.md R54). -/
theorem accessError_eq_none_iff {s : State} {access : Access} {w : Width} {a : Word} :
    accessError s access w a = none ↔ a.toNat % w.bytes = 0 ∧ memValid s.params a.toNat w.bytes access = true := by
  rw [accessError_eq_none, aligned_iff]

/-- An access whose address is no multiple of the width or whose bytes are not valid raises AddressError
(20_memory.md R54). -/
theorem accessError_of_bad {s : State} {access : Access} {w : Width} {a : Word}
    (h : a.toNat % w.bytes ≠ 0 ∨ memValid s.params a.toNat w.bytes access = false) :
    accessError s access w a = some (.addressError access a) := by
  refine accessError_eq_some.2 ⟨h.imp_left fun hmod => ?_, rfl⟩
  rwa [← Bool.not_eq_true, aligned_iff]

theorem not_bad_iff {s : State} {access : Access} {w : Width} {a : Word} :
    ¬ (a.toNat % w.bytes ≠ 0 ∨ memValid s.params a.toNat w.bytes access = false) ↔
      accessError s access w a = none := by
  rw [accessError_eq_none_iff, not_or, not_not, Bool.not_eq_false]

theorem memRead_of_ok {s : State} {access : Access} {w : Width} {a : Word} (h : accessError s access w a = none) :
    memRead s access w a = .ok (s.valueAt w a) := by
  rw [memRead, h]

theorem memRead_of_bad {s : State} {access : Access} {w : Width} {a : Word}
    (h : accessError s access w a = some (.addressError access a)) :
    memRead s access w a = .error (.addressError access a) := by
  rw [memRead, h]

/-- Settles O24: past the checks the value is the bytes appended in the machine's order, which as a number weighs each
by its place. -/
theorem memReadAssemblesBytesByEndian : Obligations.MemReadAssemblesBytesByEndian := by
  intro s access w a B
  split
  case isTrue hbad => exact memRead_of_bad (accessError_of_bad hbad)
  case isFalse hok =>
    rw [memRead_of_ok (not_bad_iff.1 hok)]
    congr 1
    apply BitVec.eq_of_toNat_eq
    cases w with
    | byte =>
      rw [valueAt_byte]
      simp [B]
    | half =>
      rw [valueAt_half]
      cases s.params.endian <;> simp only [BitVec.toNat_setWidth, toNat_append_eq, BitVec.toNat_ofNat, Nat.add_zero, B] <;> omega
    | word =>
      rw [valueAt_word]
      cases s.params.endian <;> simp only [toNat_append_eq, BitVec.toNat_ofNat, Nat.add_zero, B] <;> omega

/-- Settles O26: closed reads, evaluated. -/
theorem figuraOneReads : Obligations.FiguraOneReads := by
  unfold Obligations.FiguraOneReads
  decide

/-! ### Bytes written -/

section
variable (s : State) (w : Width) (a v : Word)

/-- A store puts the low bytes of the value at its address in the machine's order (20_memory.md R55). -/
theorem storeAt_readByte {k : Nat} (hk : k < w.bytes) : (s.storeAt w a v).mem.readByte (a.toNat + k) =
    v.extractLsb' (8 * (match s.params.endian with | .little => k | .big => w.bytes - 1 - k)) 8 := by
  have hin : a.toNat ≤ a.toNat + k ∧
      a.toNat + k - a.toNat < (byteOrder s.params.endian (splitBytes w.bytes v)).length := by
    rw [length_byteOrder, length_splitBytes]
    omega
  rw [State.storeAt_mem, Memory.readByte_writeBytes, dif_pos hin, ← getElem_byteOrder_splitBytes _ v hk]
  simp only [Nat.add_sub_cancel_left]

theorem storeAt_sameMemoryBut : sameMemoryBut s (s.storeAt w a v) a.toNat w.bytes := by
  intro q hq
  rw [State.storeAt_mem, Memory.readByte_writeBytes, dif_neg]
  rw [length_byteOrder, length_splitBytes]
  omega

theorem Width.bytes_le : w.bytes ≤ 4 := by cases w <;> decide

/-- A value stored is read back, cut to the width of the access (20_memory.md R55). -/
theorem valueAt_storeAt : (s.storeAt w a v).valueAt w a = BitVec.ofNat 32 (v.toNat % 256 ^ w.bytes) := by
  have hlen : (byteOrder s.params.endian (splitBytes w.bytes v)).length = w.bytes := by
    rw [length_byteOrder, length_splitBytes]
  have hback := Memory.readBytes_writeBytes (byteOrder s.params.endian (splitBytes w.bytes v)) s.mem a.toNat
  rw [hlen] at hback
  rw [State.valueAt, State.storeAt_params, State.storeAt_mem, hback, byteOrder_byteOrder,
    joinBytes_splitBytes w.bytes_le]

end

theorem memWrite_of_ok {s : State} {w : Width} {a v : Word} (h : accessError s .store w a = none) :
    memWrite s w a v = .ok (s.storeAt w a v) := by
  rw [memWrite, h]

/-- Settles O25: past the checks the write is `storeAt`, whose bytes, frame and read-back are known. -/
theorem memWriteReplacesExactlyItsBytes : Obligations.MemWriteReplacesExactlyItsBytes := by
  intro s w a v
  split
  case isTrue hbad =>
    rw [memWrite, accessError_of_bad hbad]
  case isFalse hok =>
    have haccess := not_bad_iff.1 hok
    refine ⟨_, memWrite_of_ok haccess, fun k hk => storeAt_readByte s w a v hk, storeAt_sameMemoryBut s w a v, rfl, ?_⟩
    intro hload
    rw [← valueAt_storeAt s w a v]
    exact memRead_of_ok (accessError_eq_none_iff.2 ⟨(accessError_eq_none_iff.1 haccess).1, hload⟩)

/-! ### Loads and stores -/

section
variable {w : Width} {rt rs : RegNum} {imm : Imm16} {s : State}

theorem takesException_raise (s : State) (c : Cause) : takesException (raise c s) s c := rfl

theorem completesWithReg_loadInto (extend : Word → Word)
    (h : accessError s .load w (effectiveAddress (s.reg rs) imm) = none) :
    completesWithReg (loadInto w extend rt rs imm s) s rt
      (extend (s.valueAt w (effectiveAddress (s.reg rs) imm))) (s.pc + 4#32) := by
  rw [loadInto, memRead_of_ok h]
  exact completesWithReg_writeBack rt _ s

theorem takesException_loadInto {extend : Word → Word}
    (h : accessError s .load w (effectiveAddress (s.reg rs) imm) =
      some (.addressError .load (effectiveAddress (s.reg rs) imm))) :
    takesException (loadInto w extend rt rs imm s) s (.addressError .load (effectiveAddress (s.reg rs) imm)) := by
  rw [loadInto, memRead_of_bad h]
  exact takesException_raise s _

theorem takesException_storeFrom
    (h : accessError s .store w (effectiveAddress (s.reg rs) imm) =
      some (.addressError .store (effectiveAddress (s.reg rs) imm))) :
    takesException (storeFrom w rt rs imm s) s (.addressError .store (effectiveAddress (s.reg rs) imm)) := by
  rw [storeFrom, memWrite, h]
  exact takesException_raise s _

theorem storeFrom_of_ok (h : accessError s .store w (effectiveAddress (s.reg rs) imm) = none) :
    storeFrom w rt rs imm s = .next (s.storeAt w (effectiveAddress (s.reg rs) imm) (s.reg rt)).advance := by
  rw [storeFrom, memWrite_of_ok h]

/-- A byte access needs no alignment (20_memory.md R56). -/
theorem accessError_byte_eq_none {access : Access} {a : Word} (h : memValid s.params a.toNat 1 access = true) :
    accessError s access .byte a = none :=
  accessError_eq_none_iff.2 ⟨Nat.mod_one _, h⟩

end

/-- A byte survives its extension with zeros (43_load.md R171). -/
theorem sextByte_zeroExtend (b : Byte) : sextByte (b.zeroExtend 32) = b.signExtend 32 := by
  rw [sextByte, BitVec.setWidth_setWidth_of_le _ (by decide), BitVec.setWidth_eq]

theorem sextHalf_zeroExtend (h : BitVec 16) : sextHalf (h.zeroExtend 32) = h.signExtend 32 := by
  rw [sextHalf, BitVec.setWidth_setWidth_of_le _ (by decide), BitVec.setWidth_eq]

/-- Settles O44: past the checks a load writes back the extended value of its bytes. -/
theorem loadsReadTheirBytes : Obligations.LoadsReadTheirBytes := by
  intro rt rs imm s ea B half word loads
  have hbyte : s.valueAt .byte ea = (B 0).zeroExtend 32 := valueAt_byte s ea
  have hhalf : s.valueAt .half ea = half.zeroExtend 32 := valueAt_half s ea
  have hword : s.valueAt .word ea = word := valueAt_word s ea
  refine ⟨fun hvalid => ?_, fun hmod hvalid => ?_, fun hmod hvalid => ?_⟩
  · have hok := accessError_byte_eq_none hvalid
    rw [← sextByte_zeroExtend, ← hbyte]
    exact ⟨completesWithReg_loadInto sextByte hok, completesWithReg_loadInto id hok⟩
  · have hok : accessError s .load .half ea = none := accessError_eq_none_iff.2 ⟨hmod, hvalid⟩
    rw [← sextHalf_zeroExtend, ← hhalf]
    exact ⟨completesWithReg_loadInto sextHalf hok, completesWithReg_loadInto id hok⟩
  · have hok : accessError s .load .word ea = none := accessError_eq_none_iff.2 ⟨hmod, hvalid⟩
    rw [← hword]
    exact completesWithReg_loadInto id hok

/-- Settles O45: a load whose checks fail raises before anything is written. -/
theorem badLoadsRaiseAddressError : Obligations.BadLoadsRaiseAddressError := by
  intro rt rs imm s ea raises
  refine ⟨fun hbad => ?_, fun hbad => ?_, fun hbad => ?_⟩
  · have he : accessError s .load .byte ea = _ := accessError_of_bad (.inr hbad)
    exact ⟨takesException_loadInto he, takesException_loadInto he⟩
  · have he : accessError s .load .half ea = _ := accessError_of_bad hbad
    exact ⟨takesException_loadInto he, takesException_loadInto he⟩
  · have he : accessError s .load .word ea = _ := accessError_of_bad hbad
    exact takesException_loadInto he

/-- Settles O46: past the checks a store is `storeAt`, and then pc + 4. -/
theorem storesWriteExactlyTheirBytes : Obligations.StoresWriteExactlyTheirBytes := by
  intro rt rs imm s ea stores
  have of_ok (i : Instr) (w : Width) (hi : exec i s = storeFrom w rt rs imm s) (h : accessError s .store w ea = none) :
      stores i w.bytes :=
    ⟨_, hi.trans (storeFrom_of_ok h), fun k hk => storeAt_readByte s w ea (s.reg rt) hk,
      storeAt_sameMemoryBut s w ea (s.reg rt), rfl, fun _ => rfl, ⟨rfl, rfl⟩, rfl, rfl, rfl⟩
  exact ⟨fun hvalid => of_ok (.sb rt rs imm) .byte rfl (accessError_byte_eq_none hvalid),
    fun hmod hvalid => of_ok (.sh rt rs imm) .half rfl (accessError_eq_none_iff.2 ⟨hmod, hvalid⟩),
    fun hmod hvalid => of_ok (.sw rt rs imm) .word rfl (accessError_eq_none_iff.2 ⟨hmod, hvalid⟩)⟩

/-- Settles O47: a store whose checks fail raises before a byte is written. -/
theorem badStoresRaiseAddressError : Obligations.BadStoresRaiseAddressError := by
  intro rt rs imm s ea raises
  exact ⟨fun hbad => takesException_storeFrom (w := .byte) (accessError_of_bad (.inr hbad)),
    fun hbad => takesException_storeFrom (w := .half) (accessError_of_bad hbad),
    fun hbad => takesException_storeFrom (w := .word) (accessError_of_bad hbad)⟩

end Sys2Proof.Machine
end

section
/-! The step (00_scope.md R17) and the states a run starts from (70_reset_and_hazards.md): the fetch as an access whose
value is decoded, the word placed for it, the image as bytes written one after the other. -/

namespace Sys2Proof.Machine

/-! ### The step by what is fetched -/

section
variable {s : State} (htrap : s.trap = none)
include htrap

theorem step_of_badFetch (h : accessError s .fetch .word s.pc = some (.addressError .fetch s.pc)) :
    step s = raise (.addressError .fetch s.pc) s := by
  simp [step, htrap, fetchDecode, memRead_of_bad h]

theorem step_of_decode_ok {i : Instr} (h : accessError s .fetch .word s.pc = none)
    (hd : decode (s.valueAt .word s.pc) = .ok i) : step s = exec i s := by
  simp [step, htrap, fetchDecode, memRead_of_ok h, hd]

theorem step_of_decode_error {r : Reject} (h : accessError s .fetch .word s.pc = none)
    (hd : decode (s.valueAt .word s.pc) = .error r) :
    step s = raise (.reservedInstruction (s.valueAt .word s.pc)) s := by
  simp [step, htrap, fetchDecode, memRead_of_ok h, hd]

end

/-- Settles O8: an aligned and valid pc passes the checks of the fetch. -/
theorem stepRunsTheDecodedInstruction : Obligations.StepRunsTheDecodedInstruction := by
  intro s i htrap hmod hvalid hd
  exact step_of_decode_ok htrap (accessError_eq_none_iff.2 ⟨hmod, hvalid⟩) hd

/-- Settles O9: any other pc fails them. -/
theorem badFetchRaisesAddressError : Obligations.BadFetchRaisesAddressError := by
  intro s htrap hbad
  rw [step_of_badFetch htrap (accessError_of_bad hbad)]
  exact takesException_raise s _

/-- Settles O10: the decoder follows the table, so a word of no row does not decode. -/
theorem reservedWordRaises : Obligations.ReservedWordRaises := by
  intro s htrap hmod hvalid hrows
  have hok : accessError s .fetch .word s.pc = none := accessError_eq_none_iff.2 ⟨hmod, hvalid⟩
  cases hd : decode (s.valueAt .word s.pc) with
  | ok i =>
    obtain ⟨r, hr, hselects⟩ := (decoderFollowsTheOpcodeTable.1 _).1 ⟨i, hd⟩
    exact absurd hselects (hrows r hr)
  | error r =>
    rw [step_of_decode_error htrap hok hd]
    exact takesException_raise s _

/-- Settles O11: `stepWith` asks for the record and the handler before it steps, and a step asks for the record first. -/
theorem endedRunStopsUnlessAHandlerGoesOn : Obligations.EndedRunStopsUnlessAHandlerGoesOn := by
  refine ⟨fun s record htrap => ?_, fun h s record htrap => ?_, fun h s htrap => ?_, fun s => ?_⟩
  · simp [step, htrap]
  · simp [stepWith, htrap]
  · simp [stepWith, htrap]
  · cases htrap : s.trap <;> simp [stepWith, htrap]

/-- A whole word stored is read back whole (20_memory.md R55). -/
theorem valueAt_storeAt_word (s : State) (a v : Word) : (s.storeAt .word a v).valueAt .word a = v := by
  have hlt : v.toNat < 256 ^ Width.word.bytes := v.isLt
  rw [valueAt_storeAt, Nat.mod_eq_of_lt hlt, BitVec.ofNat_toNat, BitVec.setWidth_eq]

/-- Settles O48: the store leaves the word at pc + 4, where the next step reads it back whole and decodes it. -/
theorem storedWordIsFetched : Obligations.StoredWordIsFetched := by
  intro rt rs imm s t i haddr hmod htrap hstore hfetch hexec hd
  have hea : effectiveAddress (s.reg rs) imm = nextPc s.pc := haddr
  have hmod4 : (nextPc s.pc).toNat % 4 = 0 := by
    rw [toNat_nextPc]
    omega
  have hok : accessError s .store .word (effectiveAddress (s.reg rs) imm) = none :=
    hea ▸ accessError_eq_none_iff.2 ⟨hmod4, hstore⟩
  obtain rfl : (s.storeAt .word (nextPc s.pc) (s.reg rt)).advance = t :=
    hea ▸ Host.Outcome.next.inj ((storeFrom_of_ok hok).symm.trans hexec)
  have hnext : accessError (s.storeAt .word (nextPc s.pc) (s.reg rt)).advance .fetch .word (nextPc s.pc) = none :=
    accessError_eq_none_iff.2 ⟨hmod4, hfetch⟩
  have hword : decode ((s.storeAt .word (nextPc s.pc) (s.reg rt)).valueAt .word (nextPc s.pc)) = .ok i :=
    (congrArg decode (valueAt_storeAt_word s _ _)).trans hd
  exact step_of_decode_ok (s := (s.storeAt .word (nextPc s.pc) (s.reg rt)).advance) htrap hnext hword

/-! ### Placing a word -/

/-- The mask of `fetchablePc` clears the two low bits alone. -/
theorem append_and_highMask (x : BitVec 30) (y : BitVec 2) : (x ++ y) &&& (BitVec.allOnes 30 ++ 0#2) = x ++ 0#2 := by
  rw [BitVec.and_append, BitVec.and_allOnes, BitVec.and_zero]

/-- `fetchablePc` rounds down (10_state.md R27). -/
theorem toNat_fetchablePc (pc : Word) : (fetchablePc pc).toNat = pc.toNat / 4 * 4 := by
  have := pc.isLt
  have hpc : pc.extractLsb' 2 30 ++ pc.extractLsb' 0 2 = pc := by
    apply BitVec.eq_of_toNat_eq
    rw [toNat_append_eq, toNat_extract, toNat_extract]
    omega
  have hand : fetchablePc pc = pc.extractLsb' 2 30 ++ 0#2 := by
    rw [← append_and_highMask _ (pc.extractLsb' 0 2), hpc]
    rfl
  rw [hand, toNat_append_eq, toNat_extract, BitVec.toNat_zero]
  omega

/-- A pc that is a multiple of 4 stays as it is (10_state.md R27). -/
theorem fetchablePc_of_aligned {pc : Word} (h : pc.toNat % 4 = 0) : fetchablePc pc = pc := by
  apply BitVec.eq_of_toNat_eq
  rw [toNat_fetchablePc]
  omega

theorem withFetchable_endian (p : Params) (a : Word) : (withFetchable p a).endian = p.endian := by
  unfold withFetchable
  split <;> rfl

/-- The range that is added, where one is, admits the fetch of its four bytes. -/
theorem memValid_withFetchable (p : Params) (a : Word) : memValid (withFetchable p a) a.toNat 4 .fetch = true := by
  unfold withFetchable
  split
  case isTrue h => exact h
  case isFalse =>
    rw [memValid, List.all_eq_true]
    intro k hk
    rw [List.mem_range] at hk
    simp [Region.admits, hk]

section
variable (s : State) (word : Word)

theorem accessError_placeWord : accessError (s.placeWord word) .fetch .word (s.placeWord word).pc = none := by
  refine accessError_eq_none_iff.2 ⟨?_, memValid_withFetchable s.params (fetchablePc s.pc)⟩
  show (fetchablePc s.pc).toNat % 4 = 0
  rw [toNat_fetchablePc]
  omega

/-- The word placed is the word at pc: it is laid out in the same order as a store lays it out. -/
theorem valueAt_placeWord : (s.placeWord word).valueAt .word (s.placeWord word).pc = word := by
  have hendian : (s.placeWord word).params.endian = s.params.endian := withFetchable_endian s.params (fetchablePc s.pc)
  rw [State.valueAt, hendian]
  exact valueAt_storeAt_word s (fetchablePc s.pc) word

end

theorem tableWord_32 (w : Nat) : tableWord 32 w = BitVec.ofNat 32 w := by
  apply BitVec.eq_of_toNat_eq
  simp [tableWord]

/-- Settles O12: placing a word makes the pc aligned and valid and the word the one read there. -/
theorem placedWordIsTheNextInstruction : Obligations.PlacedWordIsTheNextInstruction := by
  intro s w t
  have ht : t = s.placeWord (BitVec.ofNat 32 w) := by rw [← tableWord_32]; rfl
  have htrap : t.trap = none := rfl
  have hok : accessError t .fetch .word t.pc = none := ht ▸ accessError_placeWord s _
  have hword : t.valueAt .word t.pc = BitVec.ofNat 32 w := ht ▸ valueAt_placeWord s _
  refine ⟨htrap, fun _ => rfl, ⟨rfl, rfl⟩, fun hmod => fetchablePc_of_aligned hmod, hword, ?_⟩
  cases hd : decode (BitVec.ofNat 32 w) with
  | ok i => exact step_of_decode_ok htrap hok (hword.symm ▸ hd)
  | error r => exact hword ▸ step_of_decode_error htrap hok (hword.symm ▸ hd)

/-! ### The states a run starts from -/

/-- Settles O17: an image placed in the space is in canonical form, and slot 0 starts at 0. -/
theorem resetAndLaunchMeetTheStateInvariant : Obligations.ResetAndLaunchMeetTheStateInvariant := by
  refine ⟨⟨reset_mem_wf, rfl⟩, fun l hl => ⟨loadImage_wf l.image Memory.wf_nil hl, ?_⟩⟩
  exact Vector.getElem_set_self _

/-- An address that an image does not list keeps its byte. -/
theorem readByte_loadImage_of_not_listed {cells : List Host.Cell} {m : Memory} {a : Nat} (h : ∀ c ∈ cells, c.1 ≠ a) :
    (loadImage cells m).readByte a = m.readByte a := by
  induction cells generalizing m with
  | nil => rfl
  | cons c cells ih =>
    rw [List.forall_mem_cons] at h
    rw [loadImage, ih h.2, Memory.readByte_writeByte, if_neg h.1.symm]

/-- The last listing of an address gives its byte (log 16). -/
theorem readByte_loadImage_of_last (before after : List Host.Cell) (m : Memory) {a : Nat} (b : Byte)
    (h : ∀ c ∈ after, c.1 ≠ a) : (loadImage (before ++ (a, b) :: after) m).readByte a = b := by
  induction before generalizing m with
  | nil => rw [List.nil_append, loadImage, readByte_loadImage_of_not_listed h, Memory.readByte_writeByte, if_pos rfl]
  | cons c before ih => exact ih (m.writeByte c.1 c.2)

/-- Settles O18: slot 0 alone differs from the registers supplied, and the last listing of an address gives its byte. -/
theorem launchStateIsAsSupplied : Obligations.LaunchStateIsAsSupplied := by
  intro l s
  refine ⟨rfl, fun r hr => ?_, rfl, rfl, rfl, rfl, rfl, fun before after a b himage hafter => ?_⟩
  · have hne : 0 ≠ r.toNat := fun h => hr (BitVec.eq_of_toNat_eq h.symm)
    rw [State.reg, if_neg hr]
    exact Vector.getElem_set_ne (by decide) _ hne
  · show (loadImage l.image []).readByte a = b
    rw [himage]
    exact readByte_loadImage_of_last before after [] b hafter

end Sys2Proof.Machine
end

section
/-! Arithmetic (40_arithmetic.md): overflow, the extended immediate, leading counts, division and the accumulator, each as
a fact about numbers; the effects are those of `completesWithReg_writeBack` and `completesWithHiLo_writeHiLo`. -/

namespace Sys2Proof.Machine

/-! ### Overflow -/

theorem outsideWord_eq_false {n : Int} : outsideWord n = false ↔ -2147483648 ≤ n ∧ n ≤ 2147483647 := by
  simp [outsideWord]

/-- A sum that fits is exact (40_arithmetic.md R111, R115). -/
theorem toInt_add_of_fits {a b : Word} (h : outsideWord (a.toInt + b.toInt) = false) :
    (a + b).toInt = a.toInt + b.toInt := by
  rw [outsideWord_eq_false] at h
  rw [BitVec.toInt_add]
  exact Int.bmod_eq_of_le (by omega) (by omega)

theorem toInt_sub_of_fits {a b : Word} (h : outsideWord (a.toInt - b.toInt) = false) :
    (a - b).toInt = a.toInt - b.toInt := by
  rw [outsideWord_eq_false] at h
  rw [BitVec.toInt_sub]
  exact Int.bmod_eq_of_le (by omega) (by omega)

/-- An instruction that raises on overflow and else writes back a value: the exact result where it fits, the exception
where it does not (40_arithmetic.md R115, R116, R134). -/
theorem exact_or_overflow {n : Int} {v : Word} (s : State) (d : RegNum)
    (hv : outsideWord n = false → v.toInt = n) :
    let o := if outsideWord n then raise .integerOverflow s else writeBack d v s
    if -2147483648 ≤ n ∧ n ≤ 2147483647 then ∃ v : Word, v.toInt = n ∧ completesWithReg o s d v (s.pc + 4#32)
    else takesException o s .integerOverflow := by
  cases h : outsideWord n with
  | false =>
    rw [if_pos (outsideWord_eq_false.1 h)]
    exact ⟨v, hv h, completesWithReg_writeBack d v s⟩
  | true =>
    rw [if_neg fun hfits => by simp [outsideWord_eq_false.2 hfits] at h]
    exact takesException_raise s _

/-- Settles O27: the condition of the exception is that the exact result does not fit, and a result that fits is not
changed by the wrap. -/
theorem signedAddAndSubtractDetectOverflow : Obligations.SignedAddAndSubtractDetectOverflow := by
  intro rd rs rt imm s fits outcome
  have hadd : outcome (.add rd rs rt) rd _ := exact_or_overflow s rd toInt_add_of_fits
  have haddi : outcome (.addi rt rs imm) rt _ := exact_or_overflow s rt toInt_add_of_fits
  have hsub : outcome (.sub rd rs rt) rd _ := exact_or_overflow s rd toInt_sub_of_fits
  rw [toInt_sextImm] at haddi
  exact ⟨hadd, haddi, hsub⟩

/-! ### The immediate of the unsigned instructions -/

theorem toNat_zextImm (imm : Imm16) : (zextImm imm).toNat = imm.toNat :=
  BitVec.toNat_setWidth_of_le (by decide)

/-- Sign extension adds 2^32 - 2^16 where bit 15 is set (30_encoding.md R86). -/
theorem toNat_sextImm (imm : Imm16) :
    (sextImm imm).toNat = if imm.toNat < 32768 then imm.toNat else imm.toNat + 4294901760 := by
  have hext := toInt_sextImm imm
  rw [BitVec.toInt_eq_toNat_cond, BitVec.toInt_eq_toNat_cond] at hext
  have := (sextImm imm).isLt
  have := imm.isLt
  split at hext <;> split at hext <;> split <;> omega

/-- The extended immediate as a number, for either value of `UNSIGNED_IMM_EXT` (30_encoding.md R87). -/
theorem toNat_unsignedImm (p : Params) (imm : Imm16) : (unsignedImm p imm).toNat = match p.unsignedImmExt with
    | .zero => imm.toNat
    | .sign => if imm.toNat < 32768 then imm.toNat else imm.toNat + 4294901760 := by
  unfold unsignedImm
  cases p.unsignedImmExt
  · exact toNat_zextImm imm
  · exact toNat_sextImm imm

/-- Settles O29: both instructions write back a function of the extended immediate, which is the number `e`. -/
theorem unsignedImmediatesFollowTheParameter : Obligations.UnsignedImmediatesFollowTheParameter := by
  intro rt rs imm s e
  have he : (unsignedImm s.params imm).toNat = e := toNat_unsignedImm s.params imm
  rw [← he, ← truthWord_lessUnsigned]
  exact ⟨⟨_, BitVec.toNat_add _ _, completesWithReg_writeBack rt _ s⟩, completesWithReg_writeBack rt _ s⟩

/-! ### Leading counts -/

theorem leadingZeros_le (n : Nat) (v : Word) : leadingZeros n v ≤ n := by
  induction n with
  | zero => exact le_rfl
  | succ n ih =>
    rw [leadingZeros]
    split <;> omega

/-- The counted bits are 0 (40_arithmetic.md R112). -/
theorem getLsbD_of_leadingZeros {n k : Nat} (v : Word) (hk : n - leadingZeros n v ≤ k) (hkn : k < n) :
    v.getLsbD k = false := by
  induction n with
  | zero => omega
  | succ n ih =>
    have := leadingZeros_le n v
    rw [leadingZeros] at hk
    split at hk
    case isTrue => omega
    case isFalse h =>
      by_cases hkn' : k = n
      · rwa [hkn', ← Bool.not_eq_true]
      · exact ih (by omega) (by omega)

/-- The bit that ends the count is 1 (40_arithmetic.md R112). -/
theorem getLsbD_after_leadingZeros {n : Nat} (v : Word) (h : leadingZeros n v < n) :
    v.getLsbD (n - 1 - leadingZeros n v) = true := by
  induction n with
  | zero => omega
  | succ n ih =>
    rw [leadingZeros] at h ⊢
    split at h
    case isTrue hbit => rwa [if_pos hbit]
    case isFalse hbit =>
      rw [if_neg hbit, show n + 1 - 1 - (leadingZeros n v + 1) = n - 1 - leadingZeros n v by omega]
      exact ih (by omega)

/-- Settles O30: `clz` counts the leading zeros of the register and `clo` those of its complement. -/
theorem leadingBitCounts : Obligations.LeadingBitCounts := by
  intro rd rs s leading
  have hnot (k : Nat) (hk : k < 32) : (s.reg rs).getLsbD k = !(~~~(s.reg rs)).getLsbD k := by
    rw [BitVec.getLsbD_not, decide_eq_true hk, Bool.true_and, Bool.not_not]
  constructor
  · refine ⟨_, ⟨leadingZeros_le 32 (~~~(s.reg rs)), fun k hk hlt => ?_, fun h => ?_⟩, completesWithReg_writeBack rd _ s⟩
    · rw [hnot k hlt, getLsbD_of_leadingZeros _ hk hlt, Bool.not_false]
    · rw [hnot _ (by omega), getLsbD_after_leadingZeros _ h]
  · exact ⟨_, ⟨leadingZeros_le 32 (s.reg rs), fun k hk hlt => getLsbD_of_leadingZeros _ hk hlt,
      getLsbD_after_leadingZeros _⟩, completesWithReg_writeBack rd _ s⟩

/-! ### Division -/

theorem toNat_unsignedDivide_lo (a b : Word) : (unsignedDivide a b).lo.toNat = a.toNat / b.toNat :=
  (BitVec.toNat_ofNat _ _).trans (Nat.mod_eq_of_lt ((Nat.div_le_self _ _).trans_lt a.isLt))

theorem toNat_unsignedDivide_hi (a b : Word) : (unsignedDivide a b).hi.toNat = a.toNat % b.toNat := by
  have hrem : a.toNat - a.toNat / b.toNat * b.toNat = a.toNat % b.toNat := by rw [Nat.mod_def, Nat.mul_comm]
  rw [unsignedDivide, hrem, BitVec.toNat_ofNat]
  exact Nat.mod_eq_of_lt ((Nat.mod_le _ _).trans_lt a.isLt)

/-- Settles O31: quotient and remainder of the natural numbers fit a word. -/
theorem unsignedDivisionQuotientAndRemainder : Obligations.UnsignedDivisionQuotientAndRemainder := by
  intro rs rt s hrt
  have hpos : 0 < (s.reg rt).toNat := Nat.pos_of_ne_zero fun h => hrt (BitVec.eq_of_toNat_eq h)
  have hexec : exec (.divu rs rt) s = writeHiLo (unsignedDivide (s.reg rs) (s.reg rt)) s := if_neg hrt
  refine ⟨_, _, hexec ▸ completesWithHiLo_writeHiLo _ s, ?_⟩
  rw [toNat_unsignedDivide_lo, toNat_unsignedDivide_hi]
  exact ⟨(Nat.div_add_mod' _ _).symm, Nat.mod_lt _ hpos⟩

/-- The quotient toward zero fits a word but for the one pair of operands (40_arithmetic.md R113). -/
theorem toInt_signedDivide_lo {a b : Word} (h : ¬ (a.toInt = -2147483648 ∧ b.toInt = -1)) :
    (signedDivide a b).lo.toInt = a.toInt.tdiv b.toInt := by
  have hquot : (a.toInt.tdiv b.toInt).natAbs = a.toInt.natAbs / b.toInt.natAbs := Int.natAbs_tdiv _ _
  have hge : -2147483648 ≤ a.toInt := BitVec.le_toInt a
  have hlt : a.toInt < 2147483648 := BitVec.toInt_lt
  have hfits : -2147483648 ≤ a.toInt.tdiv b.toInt ∧ a.toInt.tdiv b.toInt < 2147483648 := by
    obtain hone | hneg | hbig : b.toInt = 1 ∨ b.toInt = -1 ∨ b.toInt.natAbs ≠ 1 := by omega
    · rw [hone, Int.tdiv_one]
      exact ⟨hge, hlt⟩
    · rw [hneg, Int.tdiv_neg, Int.tdiv_one]
      omega
    · have hhalf : a.toInt.natAbs / b.toInt.natAbs ≤ a.toInt.natAbs / 2 := by
        obtain hzero | htwo : b.toInt.natAbs = 0 ∨ 2 ≤ b.toInt.natAbs := by omega
        · rw [hzero, Nat.div_zero]
          exact Nat.zero_le _
        · exact Nat.div_le_div_left htwo (by decide)
      omega
  exact BitVec.toInt_ofInt_eq_self (by decide) hfits.1 hfits.2

/-- The remainder of a division toward zero is 0 or has the sign of the dividend (decision D7 of the spec). -/
theorem tmod_zero_or_sign (a b : Int) : a.tmod b = 0 ∨ (0 < a.tmod b ↔ 0 < a) := by
  obtain ha | rfl | ha : 0 < a ∨ a = 0 ∨ a < 0 := by omega
  · have := Int.tmod_nonneg b ha.le
    omega
  · exact .inl (Int.zero_tmod b)
  · have := Int.tmod_nonneg b (neg_nonneg.2 ha.le)
    rw [Int.neg_tmod] at this
    omega

/-- What the quotient leaves is at most the dividend in size (40_arithmetic.md R113). -/
theorem toInt_signedDivide_hi (a b : Word) : (signedDivide a b).hi.toInt = a.toInt.tmod b.toInt := by
  have hrem : a.toInt - a.toInt.tdiv b.toInt * b.toInt = a.toInt.tmod b.toInt := by
    rw [Int.tmod_def, Int.mul_comm]
  have habs : (a.toInt.tmod b.toInt).natAbs = a.toInt.natAbs % b.toInt.natAbs := Int.natAbs_tmod _ _
  have hle : a.toInt.natAbs % b.toInt.natAbs ≤ a.toInt.natAbs := Nat.mod_le _ _
  have hge : -2147483648 ≤ a.toInt := BitVec.le_toInt a
  have hlt : a.toInt < 2147483648 := BitVec.toInt_lt
  have hsign := tmod_zero_or_sign a.toInt b.toInt
  rw [signedDivide, hrem]
  exact BitVec.toInt_ofInt_eq_self (by decide) (by omega) (by omega)

/-- The two operands of the overflowing division, as numbers (40_arithmetic.md R113). -/
theorem overflowingPair_iff (a b : Word) :
    (a = 0x80000000#32 ∧ b = 0xFFFFFFFF#32) ↔ a.toInt = -2147483648 ∧ b.toInt = -1 := by
  rw [← BitVec.toInt_inj, ← BitVec.toInt_inj]
  rfl

/-- Settles O32: away from the one pair, quotient and remainder of the integers fit a word. -/
theorem signedDivisionTruncatesTowardZero : Obligations.SignedDivisionTruncatesTowardZero := by
  intro rs rt s hrt
  have hne : (s.reg rt).toInt ≠ 0 := fun h => hrt (BitVec.eq_of_toInt_eq h)
  have hexec : exec (.div rs rt) s = if (s.reg rs).toInt = -2147483648 ∧ (s.reg rt).toInt = -1
      then writeHiLo s.params.divOverflow s else writeHiLo (signedDivide (s.reg rs) (s.reg rt)) s := by
    simp only [← overflowingPair_iff]
    exact if_neg hrt
  rw [hexec]
  split
  case isTrue => exact completesWithHiLo_writeHiLo _ s
  case isFalse h =>
    refine ⟨_, _, completesWithHiLo_writeHiLo _ s, ?_⟩
    rw [toInt_signedDivide_lo h, toInt_signedDivide_hi]
    refine ⟨?_, ?_, tmod_zero_or_sign _ _⟩
    · rw [Int.mul_comm, Int.mul_tdiv_add_tmod]
    · rw [Int.natAbs_tmod]
      exact Nat.mod_lt _ (Int.natAbs_pos.2 hne)

/-- Settles O33: free values in Hi and Lo, and pc + 4, are all that changes. -/
theorem divisionByZeroCompletes : Obligations.DivisionByZeroCompletes := by
  intro rs rt s i hi hrt
  have hexec : exec i s = anyHiLo s := by
    obtain rfl | rfl := hi
    · exact if_pos hrt
    · exact if_pos hrt
  exact ⟨_, hexec, rfl, fun _ => rfl, fun _ => rfl, rfl, rfl⟩

/-! ### Products -/

theorem toNat_hiLoOf (hi lo : Word) : (hiLoOf hi lo).toNat = hi.toNat * 4294967296 + lo.toNat := toNat_append_eq hi lo

/-- A 64-bit value written to Hi and Lo stands there whole (40_arithmetic.md R114). -/
theorem toNat_highWord_lowWord (v : Dword) : (highWord v).toNat * 4294967296 + (lowWord v).toNat = v.toNat := by
  rw [← toNat_hiLoOf, hiLoOf, highWord_append_lowWord]

theorem toNat_signedProduct (a b : Word) :
    ((signedProduct a b).toNat : Int) = a.toInt * b.toInt % 18446744073709551616 := by
  rw [signedProduct, BitVec.toNat_ofInt]
  exact Int.toNat_of_nonneg (Int.emod_nonneg _ (by decide))

/-- Settles O35: the sum and the difference of 64-bit values wrap modulo 2^64, and the product is exact or wraps so
too. -/
theorem multiplyAccumulateWrapsModulo64Bits : Obligations.MultiplyAccumulateWrapsModulo64Bits := by
  intro rs rt s acc signed unsigned leaves
  have hleaves (i : Instr) (v : Dword) (n : Int) (hi : exec i s = writeDword v s)
      (hv : (v.toNat : Int) = n % 18446744073709551616) : leaves i n :=
    ⟨_, _, hi ▸ completesWithHiLo_writeDword v s, by rw [toNat_highWord_lowWord, hv]⟩
  have hacc : (s.hiLo.toNat : Int) = acc := congrArg Nat.cast (toNat_hiLoOf s.hi s.lo)
  have hsigned : ((signedProduct (s.reg rs) (s.reg rt)).toNat : Int) = signed % 18446744073709551616 :=
    toNat_signedProduct _ _
  have hunsigned : ((unsignedProduct (s.reg rs) (s.reg rt)).toNat : Int) = unsigned :=
    congrArg Nat.cast (toNat_unsignedProduct _ _)
  have hadd (x : Dword) : ((s.hiLo + x).toNat : Int) = (acc + x.toNat) % 18446744073709551616 := by
    rw [BitVec.toNat_add]
    omega
  have hsub (x : Dword) : ((s.hiLo - x).toNat : Int) = (acc - x.toNat) % 18446744073709551616 := by
    have := x.isLt
    rw [BitVec.toNat_sub]
    omega
  refine ⟨hleaves _ _ _ rfl ?_, hleaves _ _ _ rfl ?_, hleaves _ _ _ rfl ?_, hleaves _ _ _ rfl ?_⟩
  · rw [hadd, hsigned, Int.add_emod_emod]
  · rw [hadd, hunsigned]
  · rw [hsub, hsigned, Int.sub_emod_emod]
  · rw [hsub, hunsigned]

/-- The low half of the product is the product modulo 2^32 (40_arithmetic.md R127). -/
theorem toNat_lowWord_signedProduct (a b : Word) :
    ((lowWord (signedProduct a b)).toNat : Int) = a.toInt * b.toInt % 4294967296 := by
  have hprod := toNat_signedProduct a b
  rw [lowWord, toNat_extract]
  omega

/-- Settles O36: `mul` writes back the low half of the product, after drawing Hi and Lo where `MUL_HILO` is any. -/
theorem mulWritesTheLowWord : Obligations.MulWritesTheLowWord := by
  intro rd rs rt s
  refine ⟨_, toNat_lowWord_signedProduct (s.reg rs) (s.reg rt), ?_⟩
  cases h : s.params.mulHiLo with
  | unchanged =>
    have hexec : exec (.mul rd rs rt) s = writeBack rd (lowWord (signedProduct (s.reg rs) (s.reg rt))) s := by
      simp [exec, execMul, h]
    exact hexec ▸ completesWithReg_writeBack rd _ s
  | any =>
    have hexec : exec (.mul rd rs rt) s = writeBack rd (lowWord (signedProduct (s.reg rs) (s.reg rt))) s.drawHiLo := by
      simp [exec, execMul, h]
    exact ⟨_, hexec, fun r => State.setReg_reg s.drawHiLo rd _ r, rfl, fun _ => rfl, rfl, rfl⟩

end Sys2Proof.Machine
end

section
/-! Branches and jumps (41_branch_jump.md): what the two shapes of a branch change, and the target as a number. -/

namespace Sys2Proof.Machine

/-! ### The shapes -/

/-- A change of pc is the one effect of going on elsewhere (00_scope.md R11). -/
theorem completesWithPc_goto (s : State) (pc : Word) : completesWithPc (.next (s.goto pc)) s pc :=
  ⟨_, rfl, rfl, fun _ => rfl, ⟨rfl, rfl⟩, fun _ => rfl, rfl, rfl, rfl⟩

/-- A write of one register and a change of pc are all that a linking jump does (41_branch_jump.md R140). -/
theorem completesWithReg_goto (s : State) (d : RegNum) (v pc : Word) :
    completesWithReg (.next ((s.setReg d v).goto pc)) s d v pc :=
  ⟨_, rfl, fun r => State.setReg_reg s d v r, rfl, ⟨rfl, rfl⟩, fun _ => rfl, rfl, rfl, rfl⟩

section
variable {c : Bool} {p : Prop} [Decidable p] (imm : Imm16) (s : State)

/-- A branch goes to its target exactly where its condition holds (41_branch_jump.md R140). -/
theorem completesWithPc_branchIf (h : c = true ↔ p) :
    completesWithPc (branchIf c imm s) s (if p then branchTarget s.pc imm else s.pc + 4#32) := by
  simp only [← h]
  exact completesWithPc_goto s _

/-- The same with the link in register 31, taken or not (41_branch_jump.md R146, R150). -/
theorem completesWithReg_branchLinkIf (h : c = true ↔ p) :
    completesWithReg (branchLinkIf c imm s) s 31#5 (s.pc + 4#32)
      (if p then branchTarget s.pc imm else s.pc + 4#32) := by
  simp only [← h]
  exact completesWithReg_goto s 31#5 _ _

end

/-! ### The conditions -/

section
variable (a b : Word)

theorem geSigned_iff : geSigned a b = true ↔ b.toInt ≤ a.toInt := decide_eq_true_iff
theorem geUnsigned_iff : geUnsigned a b = true ↔ b.toNat ≤ a.toNat := decide_eq_true_iff
theorem lessSigned_iff : lessSigned a b = true ↔ a.toInt < b.toInt := decide_eq_true_iff
theorem lessUnsigned_iff : lessUnsigned a b = true ↔ a.toNat < b.toNat := decide_eq_true_iff

end

/-! ### The statements -/

/-- Settles O38: the conditions of beq and bne are the equality of the registers and its negation. -/
theorem equalityBranches : Obligations.EqualityBranches := by
  intro rs rt imm s
  have hbeq := completesWithPc_branchIf imm s (beq_iff_eq (a := s.reg rs) (b := s.reg rt))
  have hbne := completesWithPc_branchIf imm s (bne_iff_ne (a := s.reg rs) (b := s.reg rt))
  exact ⟨branchTarget s.pc imm, toNat_branchTarget s.pc imm, rfl, rfl, hbeq, hbne⟩

/-- Settles O39: each condition is a signed comparison with 0. -/
theorem compareWithZeroBranches : Obligations.CompareWithZeroBranches := by
  intro rs imm s
  have hbgez := completesWithPc_branchIf imm s (geSigned_iff (s.reg rs) 0#32)
  have hbgtz := completesWithPc_branchIf imm s (lessSigned_iff 0#32 (s.reg rs))
  have hblez := completesWithPc_branchIf imm s (geSigned_iff 0#32 (s.reg rs))
  have hbltz := completesWithPc_branchIf imm s (lessSigned_iff (s.reg rs) 0#32)
  exact ⟨branchTarget s.pc imm, toNat_branchTarget s.pc imm, rfl, rfl, rfl, rfl, hbgez, hbgtz, hblez, hbltz⟩

/-- Settles O40: the condition is computed from the state before the link is written. -/
theorem linkingBranchesWriteTheLink : Obligations.LinkingBranchesWriteTheLink := by
  intro rs imm s
  have hbgezal := completesWithReg_branchLinkIf imm s (geSigned_iff (s.reg rs) 0#32)
  have hbltzal := completesWithReg_branchLinkIf imm s (lessSigned_iff (s.reg rs) 0#32)
  exact ⟨branchTarget s.pc imm, toNat_branchTarget s.pc imm, hbgezal, hbltzal⟩

/-- Settles O41: b and bal are branches whose condition is true, and nop goes on at the next word. -/
theorem unconditionalBranchesAndNop : Obligations.UnconditionalBranchesAndNop := by
  intro imm s
  exact ⟨branchTarget s.pc imm, toNat_branchTarget s.pc imm, completesWithPc_goto s _,
    completesWithReg_goto s 31#5 _ _, completesWithPc_goto s _⟩

/-- Settles O42: both go to the jump target, jal with the link. -/
theorem jumpsStayInTheRegion : Obligations.JumpsStayInTheRegion := by
  intro target s
  exact ⟨jumpTarget s.pc target, toNat_jumpTarget s.pc target, completesWithPc_goto s _,
    completesWithReg_goto s 31#5 _ _⟩

/-- Settles O43: the register is read in the state before the link is written. -/
theorem registerJumpsCopyTheRegister : Obligations.RegisterJumpsCopyTheRegister := by
  intro rd rs s
  exact ⟨completesWithPc_goto s _, completesWithReg_goto s rd _ _⟩

/-- A label a whole number of words in reach has that number as its offset (30_encoding.md R100). -/
theorem toInt_branchOffsetTo {pc : Word} {k : Int} (hlo : -32768 ≤ k) (hhi : k ≤ 32767) :
    (branchOffsetTo pc (pc + 4#32 + BitVec.ofInt 32 (4 * k))).toInt = k := by
  have hdiff : pc + 4#32 + BitVec.ofInt 32 (4 * k) - (pc + 4#32) = BitVec.ofInt 32 (4 * k) := by
    rw [add_sub_cancel_left]
  rw [branchOffsetTo, hdiff, BitVec.toInt_eq_toNat_cond, toNat_extract, BitVec.toNat_ofInt]
  split <;> omega

/-- Settles O7: the target of the stored offset and the label are the same number modulo 2^32, and a label in the region
is the region and its own word index. -/
theorem labelFieldsReachTheirLabel : Obligations.LabelFieldsReachTheirLabel := by
  refine ⟨fun pc label k hlo hhi hlabel => ?_, fun pc label hmod hregion => ?_⟩
  · apply BitVec.eq_of_toNat_eq
    have htarget := toNat_branchTarget pc (branchOffsetTo pc label)
    rw [hlabel, toInt_branchOffsetTo hlo hhi] at htarget
    rw [hlabel, BitVec.toNat_add, BitVec.toNat_add, BitVec.toNat_ofInt, BitVec.toNat_ofNat]
    omega
  · apply BitVec.eq_of_toNat_eq
    have := label.isLt
    rw [toNat_jumpTarget, jumpTargetTo, toNat_extract, show nextPc pc = pc + 4#32 from rfl, ← hregion]
    omega

end Sys2Proof.Machine
end

section
/-! Shifts by a constant and arithmetic shifts (47_shift.md). Every meaning of the family writes back one value. -/

namespace Sys2Proof.Machine

/-- Settles O54: both write back the shifted word; the two words are decoded as they stand. -/
theorem logicalShiftsByConstant : Obligations.LogicalShiftsByConstant := by
  intro rd rt n s
  have hsll := completesWithReg_writeBack rd (shiftLeft (s.reg rt) n) s
  have hsrl := completesWithReg_writeBack rd (shiftRightLogical (s.reg rt) n) s
  exact ⟨rfl, rfl, by decide, by decide, ⟨_, toNat_shiftLeft _ n, hsll⟩, ⟨_, toNat_shiftRightLogical _ n, hsrl⟩⟩

/-- The copies of bit 31 round toward minus infinity (47_shift.md R213). -/
theorem toInt_shiftRightArithmetic (v : Word) (n : Shamt) :
    (shiftRightArithmetic v n).toInt = v.toInt / 2 ^ n.toNat := by
  rw [shiftRightArithmetic, BitVec.toInt_sshiftRight, Int.shiftRight_eq_div_pow]
  simp

/-- Settles O56: both write back the shifted word, srav by the low five bits of its register. -/
theorem arithmeticShiftsRoundDown : Obligations.ArithmeticShiftsRoundDown := by
  intro rd rt rs n s
  have hsra := completesWithReg_writeBack rd (shiftRightArithmetic (s.reg rt) n) s
  have hsrav := completesWithReg_writeBack rd (shiftRightArithmetic (s.reg rt) (shiftCount (s.reg rs))) s
  rw [← toNat_shiftCount (s.reg rs)]
  exact ⟨⟨_, toInt_shiftRightArithmetic _ n, hsra⟩, ⟨_, toInt_shiftRightArithmetic _ _, hsrav⟩⟩

end Sys2Proof.Machine
end

section
/-! Software exceptions (48_trap.md): always, or where a comparison holds. -/

namespace Sys2Proof.Machine

/-- Settles O57: both meanings are the taking of their exception. -/
theorem breakAndSyscallRaise : Obligations.BreakAndSyscallRaise :=
  fun code s => ⟨takesException_raise s (.breakpoint code), takesException_raise s (.syscall code)⟩

/-- A conditional trap raises exactly where its condition holds, and else only goes on (48_trap.md R220). -/
theorem trapIf_outcome {c : Bool} {p : Prop} (h : c = true ↔ p) (code : Option Code10) (s : State) :
    (p → takesException (trapIf c code s) s (.trap code)) ∧
    (¬ p → completesWithPc (trapIf c code s) s (s.pc + 4#32)) := by
  rw [← h]
  constructor
  · rintro rfl
    exact takesException_raise s _
  · intro hc
    rw [Bool.not_eq_true] at hc
    subst hc
    exact completesWithPc_goto s _

/-- Settles O58: each instruction is a conditional trap on its comparison of the two registers. -/
theorem registerTrapsCompareAndRaise : Obligations.RegisterTrapsCompareAndRaise := by
  intro rs rt code s a b outcome
  have hteq : outcome (.teq rs rt code) (a = b) := trapIf_outcome beq_iff_eq (some code) s
  have htne : outcome (.tne rs rt code) (a ≠ b) := trapIf_outcome bne_iff_ne (some code) s
  exact ⟨hteq, htne, trapIf_outcome (geSigned_iff a b) _ s, trapIf_outcome (geUnsigned_iff a b) _ s,
    trapIf_outcome (lessSigned_iff a b) _ s, trapIf_outcome (lessUnsigned_iff a b) _ s⟩

/-- Settles O59: each instruction is a conditional trap on its comparison with the extended immediate, which is the
number of the statement. -/
theorem immediateTrapsCompareAndRaise : Obligations.ImmediateTrapsCompareAndRaise := by
  intro rs imm s a e outcome
  have he : (unsignedImm s.params imm).toNat = e := toNat_unsignedImm s.params imm
  have hequal : a = sextImm imm ↔ a.toInt = imm.toInt := by rw [← BitVec.toInt_inj, toInt_sextImm]
  have hteqi : outcome (.teqi rs imm) (a.toInt = imm.toInt) := trapIf_outcome (beq_iff_eq.trans hequal) none s
  have htnei : outcome (.tnei rs imm) (a.toInt ≠ imm.toInt) :=
    trapIf_outcome (bne_iff_ne.trans (not_congr hequal)) none s
  have htgei := trapIf_outcome (geSigned_iff a (sextImm imm)) none s
  have htlti := trapIf_outcome (lessSigned_iff a (sextImm imm)) none s
  have htgeiu := trapIf_outcome (geUnsigned_iff a (unsignedImm s.params imm)) none s
  have htltiu := trapIf_outcome (lessUnsigned_iff a (unsignedImm s.params imm)) none s
  rw [toInt_sextImm] at htgei htlti
  rw [he] at htgeiu htltiu
  exact ⟨hteqi, htnei, htgei, htlti, htgeiu, htltiu⟩

end Sys2Proof.Machine
end

section
/-! li and la (49_pseudo.md): the constant that lui and then ori leave in one register. -/

namespace Sys2Proof.Machine

/-- The two halves, put together by lui and ori, are the constant (49_pseudo.md R241). -/
theorem loadImmediateValue_eq (imm32 : Word) : loadImmediateValue imm32 = imm32 := by
  rw [loadImmediateValue, append_zeroHalf_or_zextImm]
  exact BitVec.extractLsb'_append_extractLsb' (w := 16) (len := 16)

theorem State.setReg_setReg (s : State) (r : RegNum) (v w : Word) : (s.setReg r v).setReg r w = s.setReg r w := by
  by_cases hr : r = 0#5
  · subst hr
    rfl
  · simp [State.setReg, hr, Vector.set_set]

/-- The ori after a lui reads what the lui wrote and overwrites it; in register 0 both are discarded
(49_pseudo.md R241). -/
theorem exec_ori_after_lui (rd : RegNum) (hi lo : Imm16) (s : State) :
    exec (.ori rd rd lo) (s.setReg rd (hi ++ 0#16)).advance =
      .next ((s.setReg rd ((hi ++ 0#16 : Word) ||| zextImm lo)).goto (nextPc (nextPc s.pc))) := by
  by_cases hrd : rd = 0#5
  · subst hrd
    rfl
  · have hread : (s.setReg rd (hi ++ 0#16)).advance.reg rd = hi ++ 0#16 := State.setReg_reg_self hrd
    show writeBack rd ((s.setReg rd (hi ++ 0#16)).advance.reg rd ||| zextImm lo) _ = _
    rw [hread, ← State.setReg_setReg s rd (hi ++ 0#16) (_ ||| _)]
    rfl

/-- Settles O60: li and la have one meaning, the constant in the register, which is what the lui and the ori leave. -/
theorem loadImmediateIsLuiThenOri : Obligations.LoadImmediateIsLuiThenOri := by
  intro rd imm32 s i hi
  have hexec : exec i s = .next ((s.setReg rd (loadImmediateValue imm32)).goto (nextPc (nextPc s.pc))) := by
    obtain rfl | rfl := hi <;> rfl
  have hwords : encode i = loadImmediateWords rd imm32 := by
    obtain rfl | rfl := hi <;> rfl
  have hpc : s.pc + 8#32 = nextPc (nextPc s.pc) := (BitVec.add_assoc s.pc 4#32 4#32).symm
  have hhalves : imm32.extractLsb' 16 16 ++ imm32.extractLsb' 0 16 = imm32 :=
    BitVec.extractLsb'_append_extractLsb' (w := 16) (len := 16)
  constructor
  · rw [hexec, loadImmediateValue_eq, hpc]
    exact completesWithReg_goto s rd imm32 _
  · exact ⟨imm32.extractLsb' 16 16, imm32.extractLsb' 0 16, _, _, _, hhalves, hwords, rfl, rfl, rfl,
      (exec_ori_after_lui rd _ _ s).trans hexec.symm⟩

end Sys2Proof.Machine
end
